-- ==== Sys2Proof/Word.lean ====
section
/-! DEFINITION. The word types of INT96ACC (00_scope.md sections 4 and 5, 30_encoding.md R22). -/

namespace Sys2Proof

/-- One accumulator value: 96 bits, bit 0 least significant (00_scope.md R2, section 5). -/
abbrev Word96 := BitVec 96

/-- One limb of an accumulator: 32 bits (10_state.md R5). -/
abbrev Limb := BitVec 32

/-- A seed on `din`, or an extract result in `XR`: 64 bits (20_memory.md R13). -/
abbrev Word64 := BitVec 64

/-- One command word on the port `cmd`: 16 bits (30_encoding.md R22). -/
abbrev CmdWord := BitVec 16

/-- A register index as the 4-bit fields `rd` and `rs` name it, read as unsigned 0 to 15
(30_encoding.md R22). Whether the register exists is R25's check, in WellFormed. -/
abbrev RegIx := Fin 16

end Sys2Proof
end

