-- ==== Sys2Proof/Machine/Datapath.lean ====
section
/-! DEFINITION. The 96-bit datapath: limbs, the integer readings of words, the ripple-carry adder and
the negator (10_state.md R5, 00_scope.md R2, 40_arith.md R30 and R31). -/

namespace Sys2Proof.Machine

/-- `L0(x) = x[31:0]`, "low" (10_state.md R5). -/
def limb0 (x : Word96) : Limb := x.extractLsb' 0 32

/-- `L1(x) = x[63:32]`, "mid" (10_state.md R5). -/
def limb1 (x : Word96) : Limb := x.extractLsb' 32 32

/-- `L2(x) = x[95:64]`, "high" (10_state.md R5). -/
def limb2 (x : Word96) : Limb := x.extractLsb' 64 32

/-- `{L2, L1, L0}` (10_state.md R5). -/
def ofLimbs (l2 l1 l0 : Limb) : Word96 := (l2 ++ l1 ++ l0 : BitVec (32 + 32 + 32))

/-- "The low 64 bits", `x[63:0]` (10_state.md R5). -/
def low64 (x : Word96) : Word64 := x.extractLsb' 0 64

/-- `zext_96(v)` of a 64-bit word (00_scope.md section 5). -/
def zext96 (v : Word64) : Word96 := v.setWidth 96

/-- `val(x) = uns(x) - 2^96 * x[95]` (00_scope.md R2). -/
def val (x : Word96) : Int := (x.toNat : Int) - 2 ^ 96 * (x.getLsbD 95).toNat

/-- `sgn64(v) = uns(v) - 2^64 * v[63]` (00_scope.md section 5). -/
def sgn64 (v : Word64) : Int := (v.toNat : Int) - 2 ^ 64 * (v.getLsbD 63).toNat

/-- One limb of the adder: the exact 33-bit sum of two limbs and a carry (40_arith.md R30). -/
def limbSum (x y : Limb) (c : Bool) : BitVec 33 :=
  x.setWidth 33 + y.setWidth 33 + (BitVec.ofBool c).setWidth 33

/-- The sum limb, `s[31:0]` (40_arith.md R30). -/
def sumLimb (s : BitVec 33) : Limb := s.extractLsb' 0 32

/-- The carry-out, `s[32]` (40_arith.md R30). -/
def carryOut (s : BitVec 33) : Bool := s.getLsbD 32

/-- Ripple-carry addition limb by limb from `L0`, with a carry into `L0`; the carry out of the top limb is
discarded (the loop shared by 40_arith.md R30 and R31). -/
def rippleAdd (x y : Word96) (carryIn : Bool) : Word96 :=
  let s0 := limbSum (limb0 x) (limb0 y) carryIn
  let s1 := limbSum (limb1 x) (limb1 y) (carryOut s0)
  let s2 := limbSum (limb2 x) (limb2 y) (carryOut s1)
  ofLimbs (sumLimb s2) (sumLimb s1) (sumLimb s0)

/-- `ADD96(x, y)` (40_arith.md R30). -/
def add96 (x y : Word96) : Word96 := rippleAdd x y false

/-- `NEG96(x)`: complement of all limbs, then +1 with carry through every limb (40_arith.md R31). -/
def neg96 (x : Word96) : Word96 := rippleAdd (~~~x) 0#96 true

end Sys2Proof.Machine
end

