-- ==== Sys2Proof/Config.lean ====
section
/-! DEFINITION. What an implementation of INT96ACC fixes: the one parameter `NREG` (00_scope.md R1). -/

namespace Sys2Proof.Config

/-- The least legal `NREG`: subtraction needs two registers (00_scope.md R1). -/
def nregMin : Nat := 2

/-- The greatest legal `NREG`: what a 4-bit register field can name (00_scope.md R1). -/
def nregMax : Nat := 16

/-- The spec's reference value of `NREG` (00_scope.md R1); the machine after reset,
`Machine.State.reset`, has this many registers. Every other legal value is
`Machine.State.resetWith n`. -/
def nregRef : Nat := 4

/-- Which values of `NREG` are legal: the integers 2 to 16 inclusive (00_scope.md R1). -/
def legalNreg (n : Nat) : Bool := decide (nregMin ≤ n ∧ n ≤ nregMax)

/-- What an accumulator's 96 bits hold after reset.
DESIGN CHOICE (assumption log 2, unsafe): 70_reset_and_hazards.md R53 leaves them unspecified. -/
def accAfterReset : Word96 := 0#96

end Sys2Proof.Config
end

