-- ==== Sys2Proof/Syntax.lean ====
section
/-! DEFINITION. The seven commands, one constructor per row of the opcode table
(30_encoding.md R23). -/

namespace Sys2Proof

/-- A command with its register indices. SEED's 64-bit seed is no field of the command word:
it arrives on the port `din` with it (30_encoding.md R22). -/
inductive Instr where
  /-- SEED, op 0x1, `from_unsigned` (40_arith.md R32). -/
  | seed (rd : RegIx)
  /-- NEG, op 0x2, `negate` (40_arith.md R33). -/
  | neg (rd rs : RegIx)
  /-- ADD, op 0x3, `add` (40_arith.md R34). -/
  | add (rd rs : RegIx)
  /-- ISU, op 0x4, `is_representable_unsigned` (41_extract.md R38). -/
  | isu (rs : RegIx)
  /-- EXU, op 0x5, `extract_unsigned` (41_extract.md R39). -/
  | exu (rs : RegIx)
  /-- ISN, op 0x6, `is_representable_negative` (41_extract.md R40). -/
  | isn (rs : RegIx)
  /-- EXN, op 0x7, `extract_negative` (41_extract.md R41). -/
  | exn (rs : RegIx)
deriving DecidableEq, Repr

/-- The mnemonic of 30_encoding.md R23. -/
def Instr.mnemonic : Instr → String
  | .seed _ => "SEED"
  | .neg _ _ => "NEG"
  | .add _ _ => "ADD"
  | .isu _ => "ISU"
  | .exu _ => "EXU"
  | .isn _ => "ISN"
  | .exn _ => "EXN"

/-- Every register a command names, as a source or as a destination (30_encoding.md R23). -/
def Instr.regs : Instr → List RegIx
  | .seed rd => [rd]
  | .neg rd rs => [rd, rs]
  | .add rd rs => [rd, rs]
  | .isu rs => [rs]
  | .exu rs => [rs]
  | .isn rs => [rs]
  | .exn rs => [rs]

/-- The registers a command READS (10_state.md's summary table, 60_exceptions.md R43):
`rs` of NEG, ISU, EXU, ISN, EXN; `rd` and `rs` of ADD; none of SEED. -/
def Instr.reads : Instr → List RegIx
  | .seed _ => []
  | .neg _ rs => [rs]
  | .add rd rs => [rd, rs]
  | .isu rs => [rs]
  | .exu rs => [rs]
  | .isn rs => [rs]
  | .exn rs => [rs]

/-- The one accumulator a command may write, `a[rd]` (20_memory.md R20). -/
def Instr.dest : Instr → Option RegIx
  | .seed rd => some rd
  | .neg rd _ => some rd
  | .add rd _ => some rd
  | .isu _ => none
  | .exu _ => none
  | .isn _ => none
  | .exn _ => none

end Sys2Proof
end

