-- ==== Sys2Proof/WellFormed.lean ====
section
/-! DEFINITION. Which commands exist on a block with `nreg` registers (30_encoding.md R25). -/

namespace Sys2Proof

/-- Does the register exist: index below `NREG` (30_encoding.md R25). -/
def registerExists (nreg : Nat) (r : RegIx) : Bool := decide (r.val < nreg)

/-- Every register field a command uses names an existing register (30_encoding.md R25). -/
def Instr.wellFormed (nreg : Nat) : Instr → Bool
  | .seed rd => registerExists nreg rd
  | .neg rd rs => registerExists nreg rd && registerExists nreg rs
  | .add rd rs => registerExists nreg rd && registerExists nreg rs
  | .isu rs => registerExists nreg rs
  | .exu rs => registerExists nreg rs
  | .isn rs => registerExists nreg rs
  | .exn rs => registerExists nreg rs

end Sys2Proof
end

