-- ==== Sys2Proof/Decode.lean ====
section
/-! DEFINITION. The command word: its fields, its opcode map, the decoder, the encoder, and the table
of rows with match and mask (30_encoding.md R22 to R27). -/

namespace Sys2Proof

/-- Why a word is no command (30_encoding.md R26). All four are the one cause ILLEGAL to the machine
(60_exceptions.md R43); the names only say which check of R26 refused the word. -/
inductive IllegalReason where
  /-- `cmd[15:12]` is not zero. -/
  | reservedField
  /-- The opcode is 0x0 or 0x8 to 0xF. -/
  | reservedOpcode
  /-- `rs` of SEED, or `rd` of ISU, EXU, ISN or EXN, is not zero. -/
  | unusedField
  /-- A register field the command uses is `NREG` or more (R25). -/
  | noSuchRegister
deriving DecidableEq, Repr

/-- The seven opcodes (30_encoding.md R23). -/
inductive Opcode where
  | seed | neg | add | isu | exu | isn | exn
deriving DecidableEq, Repr

/-- The opcode numbers of 30_encoding.md R23. -/
def Opcode.bits : Opcode → BitVec 4
  | .seed => 0x1#4
  | .neg => 0x2#4
  | .add => 0x3#4
  | .isu => 0x4#4
  | .exu => 0x5#4
  | .isn => 0x6#4
  | .exn => 0x7#4

/-- The opcode an `op` field names; none for the reserved 0x0 and 0x8 to 0xF (30_encoding.md R23). -/
def opcodeOf (op : BitVec 4) : Option Opcode :=
  match op.toNat with
  | 1 => some .seed
  | 2 => some .neg
  | 3 => some .add
  | 4 => some .isu
  | 5 => some .exu
  | 6 => some .isn
  | 7 => some .exn
  | _ => none

/-- `op`, bits 3:0 (30_encoding.md R22). -/
def opField (w : CmdWord) : BitVec 4 := w.extractLsb' 0 4

/-- `rd`, bits 7:4, unsigned (30_encoding.md R22). -/
def rdField (w : CmdWord) : RegIx := (w.extractLsb' 4 4).toFin

/-- `rs`, bits 11:8, unsigned (30_encoding.md R22). -/
def rsField (w : CmdWord) : RegIx := (w.extractLsb' 8 4).toFin

/-- `z`, bits 15:12, reserved (30_encoding.md R22). -/
def zField (w : CmdWord) : BitVec 4 := w.extractLsb' 12 4

/-- R25's check, the last of R26's checks: the command's registers exist. -/
def withRegisters (nreg : Nat) (i : Instr) : Except IllegalReason Instr :=
  if i.wellFormed nreg then .ok i else .error .noSuchRegister

/-- A command whose unused register field `unused` must be zero (30_encoding.md R24). -/
def withUnusedZero (nreg : Nat) (unused : RegIx) (i : Instr) : Except IllegalReason Instr :=
  if unused ≠ 0 then .error .unusedField else withRegisters nreg i

/-- `Decode` of 30_encoding.md R26, total on every 16-bit word. -/
def decode (nreg : Nat) (w : CmdWord) : Except IllegalReason Instr :=
  if zField w ≠ 0 then .error .reservedField
  else match opcodeOf (opField w) with
    | some .seed => withUnusedZero nreg (rsField w) (.seed (rdField w))
    | some .neg => withRegisters nreg (.neg (rdField w) (rsField w))
    | some .add => withRegisters nreg (.add (rdField w) (rsField w))
    | some .isu => withUnusedZero nreg (rdField w) (.isu (rsField w))
    | some .exu => withUnusedZero nreg (rdField w) (.exu (rsField w))
    | some .isn => withUnusedZero nreg (rdField w) (.isn (rsField w))
    | some .exn => withUnusedZero nreg (rdField w) (.exn (rsField w))
    | none => .error .reservedOpcode

/-- A word laid out from its fields, `z = 0` (30_encoding.md R22). -/
def packWord (rs rd : RegIx) (op : Opcode) : CmdWord :=
  (0#4 ++ BitVec.ofFin (w := 4) rs ++ BitVec.ofFin (w := 4) rd ++ op.bits : BitVec (4 + 4 + 4 + 4))

/-- The one word of a command, unused fields zero (30_encoding.md R24). -/
def encode : Instr → CmdWord
  | .seed rd => packWord 0 rd .seed
  | .neg rd rs => packWord rs rd .neg
  | .add rd rs => packWord rs rd .add
  | .isu rs => packWord rs 0 .isu
  | .exu rs => packWord rs 0 .exu
  | .isn rs => packWord rs 0 .isn
  | .exn rs => packWord rs 0 .exn

/-- One row of R24's table. -/
structure OpRow where
  op : Opcode
  matchBits : CmdWord
  mask : CmdWord
deriving DecidableEq, Repr

/-- R24's table, its columns match and mask as the spec prints them. -/
def opRows : List OpRow :=
  [ ⟨.seed, 0x0001#16, 0xFF0F#16⟩,
    ⟨.neg, 0x0002#16, 0xF00F#16⟩,
    ⟨.add, 0x0003#16, 0xF00F#16⟩,
    ⟨.isu, 0x0004#16, 0xF0FF#16⟩,
    ⟨.exu, 0x0005#16, 0xF0FF#16⟩,
    ⟨.isn, 0x0006#16, 0xF0FF#16⟩,
    ⟨.exn, 0x0007#16, 0xF0FF#16⟩ ]

/-- "A word matches a row when `(cmd & mask) = match`" (30_encoding.md R24). -/
def OpRow.matchesWord (r : OpRow) (w : CmdWord) : Bool := (w &&& r.mask) == r.matchBits

/-- The row of R24's table a command belongs to. -/
def Instr.opcode : Instr → Opcode
  | .seed _ => .seed
  | .neg _ _ => .neg
  | .add _ _ => .add
  | .isu _ => .isu
  | .exu _ => .exu
  | .isn _ => .isn
  | .exn _ => .exn

/-- The decoder on a word as the opcode table numbers its bits: bit 0 of `w` is `cmd[0]`, bits from
`nbits` up are zero. Every command is one 16-bit word (30_encoding.md R27), so a longer word with a
bit set above bit 15 is no command. `NREG` is the reference value, the one `Machine.State.reset` has. -/
def decodeTableWord (nbits w : Nat) : Option Instr :=
  if w % 2 ^ nbits < 2 ^ 16 then
    match decode Config.nregRef (BitVec.ofNat 16 (w % 2 ^ nbits)) with
    | .ok i => some i
    | .error _ => none
  else none

end Sys2Proof
end

