-- ==== Sys2Proof/Machine/State.lean ====
section
/-! DEFINITION. The state of the block, its reset value, and the reasons a step can stop
(10_state.md, 70_reset_and_hazards.md R53, 20_memory.md R13 to R16). -/

namespace Sys2Proof.Machine

/-- One accumulator register: `a[i]` and `VALID[i]` (10_state.md R4, R6). -/
structure AccReg where
  value : Word96
  valid : Bool
deriving DecidableEq, Repr

/-- What the host drives on the input ports at one rising edge of `clk` (20_memory.md R13). -/
structure PortIn where
  /-- `rst_n`, active low: `false` is reset asserted. -/
  rstN : Bool
  /-- `cmd_valid`. -/
  cmdValid : Bool
  /-- `cmd`. -/
  cmd : CmdWord
  /-- `din`. -/
  din : Word64
deriving DecidableEq, Repr

/-- An edge at which the host drives nothing: reset released, no command offered. "A host that has
nothing to do leaves `cmd_valid = 0`" (30_encoding.md R26); `cmd` and `din` then have no effect.
DESIGN CHOICE (assumption log 4): the model's name for the host's silence. -/
def PortIn.idle : PortIn := ⟨true, false, 0#16, 0#64⟩

/-- The cause of a fault of the BLOCK (60_exceptions.md R43). Such a fault is recorded in `STATUS` and
`FCMD` and the machine goes on, so it is no `Fault` below. The reserved codes 0x4 to 0xF are never
produced and have no constructor (93_implementation_defined.md I7). -/
inductive Cause where
  /-- 0x1: EXU or EXN whose predicate is false. -/
  | range
  /-- 0x2: the word is no command. -/
  | illegal
  /-- 0x3: the command reads a register whose `VALID` is 0. -/
  | uninit
deriving DecidableEq, Repr

/-- The whole state (10_state.md), and the port side of 20_memory.md R13 to R16.
`NREG` is the length of `file` (00_scope.md R1: a model takes `NREG` as an argument). -/
@[ext]
structure State where
  /-- `a[0]` to `a[NREG-1]` with their `VALID` bits (R4, R6). -/
  file : List AccReg
  /-- `PF`, the predicate flag (R7). -/
  pf : Bool
  /-- `XR`, the extract result (R8). -/
  xr : Word64
  /-- `STATUS`: bit 0 FAULT, bits 4:1 CAUSE, bits 7:5 reserved (R9). -/
  status : BitVec 8
  /-- `FCMD`, the word of the first faulting command (R10). -/
  fcmd : CmdWord
  /-- The block is in reset in this cycle: `rst_n = 0` was sampled at the last edge (R15, R52). -/
  inReset : Bool
  /-- A command was accepted at the last edge (R16). -/
  rspValid : Bool
  /-- MODEL'S OWN: the values on the input ports at the coming edge (R13). -/
  ports : PortIn
  /-- MODEL'S OWN: the values the host will drive at the edges after it, first one first. -/
  future : List PortIn
deriving DecidableEq, Repr

/-- Reasons a step stops the MODEL with a fault. NONE: every accepted command and every edge has a next
state (60_exceptions.md R44: "Step is total and deterministic"); the block's own faults RANGE,
ILLEGAL and UNINIT are next states (R45). No one raises a value of this type, which is safe. -/
inductive Fault where
deriving DecidableEq, Repr

/-- Reasons a step has no meaning. -/
inductive Refusal where
  /-- An arm of `exec` whose instruction has no meaning yet. Every arm has one, so no one raises it;
  raising it would be safe: nothing could be proved of such a step. -/
  | notModelled (mnemonic : String)
deriving DecidableEq, Repr

/-- The state after reset of a block with `nreg` registers (70_reset_and_hazards.md R53): `VALID`, `PF`,
`XR`, `STATUS` and `FCMD` zero. The accumulators' bits are unspecified; the model's value is
`Config.accAfterReset` (assumption log 2). The block is in reset in the cycle after the reset edge
(R52); the host drives nothing yet (assumption log 4). -/
def State.resetWith (nreg : Nat) : State where
  file := List.replicate nreg ⟨Config.accAfterReset, false⟩
  pf := false
  xr := 0#64
  status := 0#8
  fcmd := 0#16
  inReset := true
  rspValid := false
  ports := PortIn.idle
  future := []

/-- The machine right after reset, at the reference `NREG = 4` (00_scope.md R1). -/
def State.reset : State := State.resetWith Config.nregRef

end Sys2Proof.Machine
end

