-- ==== Sys2Proof/Machine/Operands.lean ====
section
/-! DEFINITION. The operand forms: an accumulator read, an accumulator written, the seed on `din`
(10_state.md R4, R6; 20_memory.md R17, R20). -/

namespace Sys2Proof.Machine

/-- `NREG`, how many registers the block holds (00_scope.md R1). -/
def State.nreg (s : State) : Nat := s.file.length

/-- The bits of `a[r]`. A register that does not exist has none; the 0 answered for it is never used,
because a command that names it is ILLEGAL before it reads (60_exceptions.md R44). -/
def State.acc (s : State) (r : RegIx) : Word96 :=
  match s.file[r.val]? with
  | some a => a.value
  | none => 0#96

/-- `VALID[r]`; no for a register that does not exist (10_state.md R6). -/
def State.valid (s : State) (r : RegIx) : Bool :=
  match s.file[r.val]? with
  | some a => a.valid
  | none => false

/-- Read `a[r]`, or fault UNINIT "and read no value" while `VALID[r] = 0` (10_state.md R6). -/
def readAcc (s : State) (r : RegIx) : Except Cause Word96 :=
  if s.valid r then .ok (s.acc r) else .error .uninit

/-- `a[r] <- v`; `VALID[r]` keeps its value. -/
def State.writeAcc (s : State) (r : RegIx) (v : Word96) : State :=
  { s with file := s.file.modify r.val fun a => { a with value := v } }

/-- `VALID[r] <- 1` (10_state.md R6). -/
def State.markValid (s : State) (r : RegIx) : State :=
  { s with file := s.file.modify r.val fun a => { a with valid := true } }

/-- SEED's operand: `din` as sampled with the command, zero-extended (20_memory.md R17,
40_arith.md R32). -/
def seedOperand (s : State) : Word96 := zext96 s.ports.din

end Sys2Proof.Machine
end

