-- ==== Sys2Proof/Machine/Flags.lean ====
section
/-! DEFINITION. The predicates of the 64-bit boundary and what they write: `PF`, `XR`
(41_extract.md R36, R37, R42; 10_state.md R7, R8). The block has no other flag (10_state.md R12). -/

namespace Sys2Proof.Machine

/-- `PredU(x)`: the top limb is zero (41_extract.md R36). -/
def predU (x : Word96) : Bool := limb2 x == 0x00000000#32

/-- `PredN(x)`: the top limb is all ones and bit 63 is set (41_extract.md R37). -/
def predN (x : Word96) : Bool := limb2 x == 0xFFFFFFFF#32 && x.getLsbD 63

/-- `PF <- b` (10_state.md R7). -/
def State.writePf (s : State) (b : Bool) : State := { s with pf := b }

/-- `XR <- v` (10_state.md R8). -/
def State.writeXr (s : State) (v : Word64) : State := { s with xr := v }

/-- An extractor's precondition: fault RANGE where the predicate is false (41_extract.md R39, R41). -/
def requireRange (p : Bool) : Except Cause Unit :=
  if p then .ok () else .error .range

/-- The four bands of 41_extract.md R42. -/
inductive Band where
  | u | n | g | w
deriving DecidableEq, Repr

/-- The band of a word, by its top limb and bit 63 (41_extract.md R42, column condition). -/
def band (x : Word96) : Band :=
  if limb2 x = 0x00000000#32 then .u
  else if limb2 x = 0xFFFFFFFF#32 then (if x.getLsbD 63 then .n else .g)
  else .w

end Sys2Proof.Machine
end

