-- ==== Sys2Proof/Machine/Ops.lean ====
section
/-! DEFINITION. The shared operations: STATUS and its fields, taking a fault, ending a command, the
clock edge, reset, and the output ports (10_state.md R9, R10; 60_exceptions.md R43 to R47;
20_memory.md R13 to R16; 70_reset_and_hazards.md R52, R53). -/

namespace Sys2Proof.Machine

/-- The code of a cause (60_exceptions.md R43). -/
def Cause.code : Cause → BitVec 4
  | .range => 0x1#4
  | .illegal => 0x2#4
  | .uninit => 0x3#4

/-- `STATUS.FAULT`, bit 0 (10_state.md R9). -/
def State.faulted (s : State) : Bool := s.status.getLsbD 0

/-- `STATUS.CAUSE`, bits 4:1 (10_state.md R9). -/
def State.cause (s : State) : BitVec 4 := s.status.extractLsb' 1 4

/-- `STATUS` bits 7:5, reserved (10_state.md R9). -/
def State.statusReserved (s : State) : BitVec 3 := s.status.extractLsb' 5 3

/-- `STATUS` with FAULT 1 and CAUSE `c`; the reserved bits are "never written" (10_state.md R9). -/
def recordCause (status : BitVec 8) (c : Cause) : BitVec 8 :=
  (status.extractLsb' 5 3 ++ c.code ++ 1#1 : BitVec (3 + 4 + 1))

/-- TAKING A FAULT, `Fault(c)` of 60_exceptions.md R45: `STATUS.FAULT <- 1`, `STATUS.CAUSE <- c`,
`FCMD <- cmd`, and no other write. There is no vector, saved pc or mode, and no return from it but
reset (R47), which is `resetEdge` below. -/
def State.takeFault (s : State) (c : Cause) : State :=
  { s with status := recordCause s.status c, fcmd := s.ports.cmd }

/-- R25 as a check of the command that runs: a register it names does not exist, ILLEGAL. A decoded
word has passed it already (30_encoding.md R26); `exec` asks it of an instruction that no decoder gave. -/
def requireLegal (i : Instr) (s : State) : Except Cause Unit :=
  if i.wellFormed s.nreg then .ok () else .error .illegal

/-- How a command ends (20_memory.md R21): with all the writes its rule gives, or, where a check raised a
cause, with R45's writes alone. -/
def completeOrFault (s : State) (r : Except Cause State) : Host.Outcome State Fault Refusal :=
  match r with
  | .ok t => .next t
  | .error c => .next (s.takeFault c)

/-- `cmd_ready`: 0 in reset, 1 in every other cycle (20_memory.md R15). -/
def State.cmdReady (s : State) : Bool := !s.inReset

/-- A command is accepted at the coming edge: `rst_n`, `cmd_valid` and `cmd_ready` are all 1
(20_memory.md R14). -/
def State.accepts (s : State) : Bool := s.ports.rstN && s.ports.cmdValid && s.cmdReady

/-- After an edge the input ports show what the host drives next; nothing where it has said nothing more
(assumption log 4). -/
def State.nextPorts (s : State) : State :=
  match s.future with
  | [] => { s with ports := PortIn.idle }
  | p :: ps => { s with ports := p, future := ps }

/-- An edge with `rst_n = 0`: every element takes its reset value and the block is in reset in the cycle
after it (70_reset_and_hazards.md R52, R53). The accumulators' bits: assumption log 2. -/
def resetEdge (s : State) : State :=
  State.nextPorts
    { s with
      file := List.replicate s.nreg ⟨Config.accAfterReset, false⟩
      pf := false
      xr := 0#64
      status := 0#8
      fcmd := 0#16
      inReset := true
      rspValid := false }

/-- The end of an edge at which a command was accepted: `rsp_valid` is 1 in the cycle after it
(20_memory.md R16). -/
def answerEdge (s : State) : State :=
  State.nextPorts { s with inReset := false, rspValid := true }

/-- An edge at which no command is accepted and reset is not asserted: the state does not change
(20_memory.md R14); `rsp_valid` is 0 in the cycle after it (R16). -/
def idleEdge (s : State) : State :=
  State.nextPorts { s with inReset := false, rspValid := false }

/-- Apply `f` to the next state, where there is one. -/
def onNext (f : State → State) (o : Host.Outcome State Fault Refusal) : Host.Outcome State Fault Refusal :=
  match o with
  | .next s => .next (f s)
  | .fault r => .fault r
  | .refused r => .refused r

/-- The output ports (20_memory.md R13). -/
structure PortOut where
  cmdReady : Bool
  rspValid : Bool
  fault : Bool
  cause : BitVec 4
  fcmd : CmdWord
  pred : Bool
  dout : Word64
deriving DecidableEq, Repr

/-- The output ports show the state elements named (20_memory.md R13, R15, R16). -/
def outputs (s : State) : PortOut where
  cmdReady := s.cmdReady
  rspValid := s.rspValid
  fault := s.faulted
  cause := s.cause
  fcmd := s.fcmd
  pred := s.pf
  dout := s.xr

/-- The response of a command as a model sees it, `(FAULT, CAUSE, FCMD, PF, XR)` (20_memory.md R16). -/
structure Response where
  fault : Bool
  cause : BitVec 4
  fcmd : CmdWord
  pf : Bool
  xr : Word64
deriving DecidableEq, Repr

/-- The response tuple of a state (20_memory.md R16). -/
def response (s : State) : Response := ⟨s.faulted, s.cause, s.fcmd, s.pf, s.xr⟩

end Sys2Proof.Machine
end

