-- ==== Sys2Proof/Machine/Arith.lean ====
section
/-! DEFINITION. SEED, NEG and ADD (40_arith.md). Each is the rule's pseudocode; the checks come in the order
of 60_exceptions.md R44 and every source is read before the destination is written. -/

namespace Sys2Proof.Machine

/-- SEED (40_arith.md R32): `a[rd] <- zext_96(din)`, `VALID[rd] <- 1`. -/
def execSeed (rd : RegIx) (s : State) : Host.Outcome State Fault Refusal :=
  completeOrFault s (do
    requireLegal (.seed rd) s
    return (s.writeAcc rd (seedOperand s)).markValid rd)

/-- NEG (40_arith.md R33): `a[rd] <- NEG96(a[rs])`, `VALID[rd] <- 1`. -/
def execNeg (rd rs : RegIx) (s : State) : Host.Outcome State Fault Refusal :=
  completeOrFault s (do
    requireLegal (.neg rd rs) s
    let x ← readAcc s rs
    return (s.writeAcc rd (neg96 x)).markValid rd)

/-- ADD (40_arith.md R34): `a[rd] <- ADD96(a[rd], a[rs])`; `VALID[rd]` stays 1. -/
def execAdd (rd rs : RegIx) (s : State) : Host.Outcome State Fault Refusal :=
  completeOrFault s (do
    requireLegal (.add rd rs) s
    let x ← readAcc s rd
    let y ← readAcc s rs
    return s.writeAcc rd (add96 x y))

end Sys2Proof.Machine
end

