-- ==== Sys2Proof/Machine/Extract.lean ====
section
/-! DEFINITION. ISU, EXU, ISN and EXN (41_extract.md). -/

namespace Sys2Proof.Machine

/-- ISU (41_extract.md R38): `PF <- PredU(a[rs])`. -/
def execIsu (rs : RegIx) (s : State) : Host.Outcome State Fault Refusal :=
  completeOrFault s (do
    requireLegal (.isu rs) s
    let x ← readAcc s rs
    return s.writePf (predU x))

/-- EXU (41_extract.md R39): RANGE where `PredU(a[rs]) = 0`, else `XR <- a[rs][63:0]`. -/
def execExu (rs : RegIx) (s : State) : Host.Outcome State Fault Refusal :=
  completeOrFault s (do
    requireLegal (.exu rs) s
    let x ← readAcc s rs
    requireRange (predU x)
    return s.writeXr (low64 x))

/-- ISN (41_extract.md R40): `PF <- PredN(a[rs])`. -/
def execIsn (rs : RegIx) (s : State) : Host.Outcome State Fault Refusal :=
  completeOrFault s (do
    requireLegal (.isn rs) s
    let x ← readAcc s rs
    return s.writePf (predN x))

/-- EXN (41_extract.md R41): RANGE where `PredN(a[rs]) = 0`, else `XR <- a[rs][63:0]`. -/
def execExn (rs : RegIx) (s : State) : Host.Outcome State Fault Refusal :=
  completeOrFault s (do
    requireLegal (.exn rs) s
    let x ← readAcc s rs
    requireRange (predN x)
    return s.writeXr (low64 x))

end Sys2Proof.Machine
end

