-- ==== Sys2Proof/Machine/Dispatch.lean ====
section
/-! DEFINITION. The `case d of` of 60_exceptions.md R44: one arm per command. -/

namespace Sys2Proof.Machine

def exec (i : Instr) (s : State) : Host.Outcome State Fault Refusal :=
  match i with
  | .seed rd => Sys2Proof.Machine.execSeed rd s
  | .neg rd rs => Sys2Proof.Machine.execNeg rd rs s
  | .add rd rs => Sys2Proof.Machine.execAdd rd rs s
  | .isu rs => Sys2Proof.Machine.execIsu rs s
  | .exu rs => Sys2Proof.Machine.execExu rs s
  | .isn rs => Sys2Proof.Machine.execIsn rs s
  | .exn rs => Sys2Proof.Machine.execExn rs s

end Sys2Proof.Machine
end

