-- ==== Sys2Proof/Machine/Command.lean ====
section
/-! DEFINITION. What an accepted command does (60_exceptions.md R44, R46), and how a host lays commands on
the port (20_memory.md R13). -/

namespace Sys2Proof.Machine

/-- `Step(cmd, din)` of 60_exceptions.md R44 on the sampled command: silenced while `STATUS.FAULT = 1`
(R46: "not decoded or checked"), ILLEGAL where it decodes to nothing, else the command's own rule. -/
def acceptCommand (s : State) : Host.Outcome State Fault Refusal :=
  if s.faulted then .next s
  else
    match decode s.nreg s.ports.cmd with
    | .error _ => .next (s.takeFault .illegal)
    | .ok i => exec i s

/-- The ports at an edge at which the host offers one command. -/
def PortIn.offer (cmd : CmdWord) (din : Word64) : PortIn := ⟨true, true, cmd, din⟩

/-- Commands executed one after the other, in the order of the list, each on the state the one before it left: the
acceptance order of 20_memory.md R18, with no ports and no time in it. -/
def State.runCommands (s : State) (cs : List (CmdWord × Word64)) : Host.Outcome State Fault Refusal :=
  match cs with
  | [] => .next s
  | c :: rest =>
    match acceptCommand { s with ports := PortIn.offer c.1 c.2 } with
    | .next t => t.runCommands rest
    | .fault r => .fault r
    | .refused r => .refused r

/-- The same state out of reset, with these commands offered at the next edges, one an edge, and nothing
after them. -/
def State.withCommands (s : State) (cs : List (CmdWord × Word64)) : State :=
  let offers := cs.map fun c => PortIn.offer c.1 c.2
  { s with inReset := false, ports := offers.headD PortIn.idle, future := offers.tail }

end Sys2Proof.Machine
end

