-- ==== Sys2Proof/Machine/Step.lean ====
section
/-! DEFINITION. One step of the machine: one rising edge of `clk` (20_memory.md R13, R14). -/

namespace Sys2Proof.Machine

/-- One rising edge of `clk`. Reset wins over a command (70_reset_and_hazards.md R52); an accepted command
executes completely at the edge (20_memory.md R14); at any other edge the state does not change. -/
def step (s : State) : Host.Outcome State Fault Refusal :=
  if s.ports.rstN then
    if s.accepts then onNext answerEdge (acceptCommand s) else .next (idleEdge s)
  else .next (resetEdge s)

/-- `s` with a command word on the port: out of reset, `rst_n` and `cmd_valid` 1, `cmd` the word (bits from
`nbits` up zero), `din` as it stands. The next step accepts exactly it. The word REPLACES what the port
held; what the host drives after it is unchanged. `STATUS` is not touched: while FAULT is 1 the block
silences any command (60_exceptions.md R46), this one too. -/
def State.withFetchWord (s : State) (nbits w : Nat) : State :=
  { s with
    inReset := false
    ports := PortIn.offer (BitVec.ofNat 16 (w % 2 ^ nbits)) s.ports.din }

end Sys2Proof.Machine
end

