-- ==== Sys2Proof/Machine/Assembler.lean ====
section
/-! DEFINITION. The assembly language: the commands' forms, the pseudo-instructions, and the text of a line
(30_encoding.md R28, R29). The block never sees it; it makes the words a host offers. -/

namespace Sys2Proof.Machine

/-- One line of assembly, registers and numbers as written (30_encoding.md R28, R29). -/
inductive Asm where
  | seed (d : Nat) (u : Int)
  | neg (d s : Nat)
  | add (d s : Nat)
  | isu (s : Nat)
  | exu (s : Nat)
  | isn (s : Nat)
  | exn (s : Nat)
  /-- `CLR aD`. -/
  | clr (d : Nat)
  /-- `NSEED aD, u`. -/
  | nseed (d : Nat) (u : Int)
  /-- `MOV aD, aS`. -/
  | mov (d s : Nat)
  /-- `SUB aD, aS, aT`, `aT` scratch. -/
  | sub (d s t : Nat)
deriving DecidableEq, Repr

/-- Why the assembler refuses a line (30_encoding.md R28, R29). -/
inductive AsmError where
  /-- A register beyond `NREG-1`. -/
  | noSuchRegister
  /-- A SEED operand outside `[0, 2^64-1]`. -/
  | seedOutOfRange
  /-- `SUB` with `T = D`. -/
  | scratchIsDestination
  /-- No mnemonic of R28 or R29. -/
  | unknownMnemonic
  /-- Not the number of operands, or not the kind of operand, that the form has. -/
  | badOperands
deriving DecidableEq, Repr

/-- A register of a line: one of the block's (30_encoding.md R28). -/
def asmReg (nreg n : Nat) : Except AsmError RegIx :=
  if h : n < 16 then (if n < nreg then .ok ⟨n, h⟩ else .error .noSuchRegister)
  else .error .noSuchRegister

/-- A seed of a line: in `[0, 2^64-1]` (30_encoding.md R28). -/
def asmSeed (u : Int) : Except AsmError Word64 :=
  if 0 ≤ u ∧ u < 2 ^ 64 then .ok (BitVec.ofInt 64 u) else .error .seedOutOfRange

/-- The commands of a line, each with its `din`; `din = 0` for every command but SEED
(30_encoding.md R28), and the expansions of R29. -/
def Asm.commands (nreg : Nat) (a : Asm) : Except AsmError (List (Instr × Word64)) :=
  match a with
  | .seed d u => do
    let rd ← asmReg nreg d
    let v ← asmSeed u
    return [(.seed rd, v)]
  | .neg d s => do
    let rd ← asmReg nreg d
    let rs ← asmReg nreg s
    return [(.neg rd rs, 0#64)]
  | .add d s => do
    let rd ← asmReg nreg d
    let rs ← asmReg nreg s
    return [(.add rd rs, 0#64)]
  | .isu s => do
    let rs ← asmReg nreg s
    return [(.isu rs, 0#64)]
  | .exu s => do
    let rs ← asmReg nreg s
    return [(.exu rs, 0#64)]
  | .isn s => do
    let rs ← asmReg nreg s
    return [(.isn rs, 0#64)]
  | .exn s => do
    let rs ← asmReg nreg s
    return [(.exn rs, 0#64)]
  | .clr d => do
    let rd ← asmReg nreg d
    return [(.seed rd, 0#64)]
  | .nseed d u => do
    let rd ← asmReg nreg d
    let v ← asmSeed u
    return [(.seed rd, v), (.neg rd rd, 0#64)]
  | .mov d s => do
    let rd ← asmReg nreg d
    let rs ← asmReg nreg s
    return [(.neg rd rs, 0#64), (.neg rd rd, 0#64)]
  | .sub d s t => do
    let rd ← asmReg nreg d
    let rs ← asmReg nreg s
    let rt ← asmReg nreg t
    if rt = rd then .error .scratchIsDestination
    else return [(.neg rt rs, 0#64), (.add rd rt, 0#64)]

/-- The words a line stands for, as the host offers them: `(cmd, din)` (30_encoding.md R28). -/
def assemble (nreg : Nat) (a : Asm) : Except AsmError (List (CmdWord × Word64)) := do
  let cs ← a.commands nreg
  return cs.map fun c => (encode c.1, c.2)

/-! ### The text of a line (30_encoding.md R28). What R28 leaves open of the text (blanks, leading zeros,
where `_` may stand, the sign of a refused seed) is assumption log 7. -/

/-- Characters of a line are case-insensitive in mnemonics and register names: the upper-case letter. -/
def upperChar (c : Char) : Char :=
  if 97 ≤ c.toNat ∧ c.toNat ≤ 122 then Char.ofNat (c.toNat - 32) else c

/-- Space and tab separate. -/
def isBlank (c : Char) : Bool := c == ' ' || c == '\t'

/-- A line without its comment: `;` starts a comment to the end of the line. -/
def stripComment (l : List Char) : List Char := l.takeWhile (· != ';')

/-- A text without the blanks around it. -/
def trimBlanks (l : List Char) : List Char :=
  ((l.dropWhile isBlank).reverse.dropWhile isBlank).reverse

/-- The operands: the text split at its commas, each trimmed. -/
def splitOperands (l : List Char) : List (List Char) :=
  let step (c : Char) (acc : List (List Char)) : List (List Char) :=
    match acc with
    | [] => if c == ',' then [[], []] else [[c]]
    | f :: rest => if c == ',' then [] :: f :: rest else (c :: f) :: rest
  (l.foldr step [[]]).map trimBlanks

/-- The value of a decimal digit. -/
def decDigit (c : Char) : Option Nat :=
  if 48 ≤ c.toNat ∧ c.toNat ≤ 57 then some (c.toNat - 48) else none

/-- The value of a hexadecimal digit, in either case. -/
def hexDigit (c : Char) : Option Nat :=
  let u := (upperChar c).toNat
  if 48 ≤ u ∧ u ≤ 57 then some (u - 48)
  else if 65 ≤ u ∧ u ≤ 70 then some (u - 55)
  else none

/-- A number from its digits, most significant first; none where one is no digit. -/
def fromDigits (base : Nat) (digit : Char → Option Nat) (l : List Char) : Option Nat :=
  l.foldl (fun acc c => do
    let n ← acc
    let d ← digit c
    return n * base + d) (some 0)

/-- A decimal number: at least one digit. -/
def parseDec (l : List Char) : Option Nat :=
  if l.isEmpty then none else fromDigits 10 decDigit l

/-- The digits after `0x`: `_` may group them, so none stands first, last or beside another. -/
def parseHex (l : List Char) : Option Nat :=
  let grouped := !l.isEmpty && l.head? != some '_' && l.getLast? != some '_' &&
    (l.zip l.tail).all fun p => !(p.1 == '_' && p.2 == '_')
  if grouped then fromDigits 16 hexDigit (l.filter (· != '_')) else none

/-- A number: decimal or `0x` hexadecimal. -/
def parseNat (l : List Char) : Option Nat :=
  match l with
  | '0' :: 'x' :: ds => parseHex ds
  | ds => parseDec ds

/-- A seed as written, a sign included so that a negative one is refused by name. -/
def parseInt (l : List Char) : Option Int :=
  match l with
  | '-' :: ds => (parseNat ds).map fun n => -(n : Int)
  | ds => (parseNat ds).map fun n => (n : Int)

/-- A register name: `a` and the index in decimal without leading zeros. -/
def parseReg (l : List Char) : Option Nat :=
  match l.map upperChar with
  | 'A' :: ds => if ds.length = 1 ∨ ds.head? ≠ some '0' then parseDec ds else none
  | _ => none

/-- A form with one register. -/
def formReg (f : Nat → Asm) (ops : List (List Char)) : Option Asm :=
  match ops with
  | [a] => do
    let r ← parseReg a
    return f r
  | _ => none

/-- A form with two registers. -/
def formRegReg (f : Nat → Nat → Asm) (ops : List (List Char)) : Option Asm :=
  match ops with
  | [a, b] => do
    let r ← parseReg a
    let q ← parseReg b
    return f r q
  | _ => none

/-- A form with a register and a number. -/
def formRegNum (f : Nat → Int → Asm) (ops : List (List Char)) : Option Asm :=
  match ops with
  | [a, b] => do
    let r ← parseReg a
    let u ← parseInt b
    return f r u
  | _ => none

/-- The form with three registers. -/
def formRegRegReg (f : Nat → Nat → Nat → Asm) (ops : List (List Char)) : Option Asm :=
  match ops with
  | [a, b, c] => do
    let r ← parseReg a
    let q ← parseReg b
    let t ← parseReg c
    return f r q t
  | _ => none

/-- The form each mnemonic of R28 and R29 has. -/
def formOf (mnemonic : List Char) : Option (List (List Char) → Option Asm) :=
  match mnemonic with
  | ['S', 'E', 'E', 'D'] => some (formRegNum .seed)
  | ['N', 'E', 'G'] => some (formRegReg .neg)
  | ['A', 'D', 'D'] => some (formRegReg .add)
  | ['I', 'S', 'U'] => some (formReg .isu)
  | ['E', 'X', 'U'] => some (formReg .exu)
  | ['I', 'S', 'N'] => some (formReg .isn)
  | ['E', 'X', 'N'] => some (formReg .exn)
  | ['C', 'L', 'R'] => some (formReg .clr)
  | ['N', 'S', 'E', 'E', 'D'] => some (formRegNum .nseed)
  | ['M', 'O', 'V'] => some (formRegReg .mov)
  | ['S', 'U', 'B'] => some (formRegRegReg .sub)
  | _ => none

/-- One line of text: nothing where it holds only blanks and a comment, else one command or
pseudo-instruction (30_encoding.md R28, R29). -/
def parseLine (l : List Char) : Except AsmError (Option Asm) :=
  let body := trimBlanks (stripComment l)
  if body.isEmpty then .ok none
  else
    match formOf ((body.takeWhile fun c => !isBlank c).map upperChar) with
    | none => .error .unknownMnemonic
    | some form =>
      match form (splitOperands (body.dropWhile fun c => !isBlank c)) with
      | none => .error .badOperands
      | some a => .ok (some a)

/-- The words of a line of text. -/
def assembleLine (nreg : Nat) (l : List Char) : Except AsmError (List (CmdWord × Word64)) := do
  match ← parseLine l with
  | none => return []
  | some a => assemble nreg a

/-- The words of a text, line after line. -/
def assembleText (nreg : Nat) (lines : List (List Char)) : Except AsmError (List (CmdWord × Word64)) := do
  let parts ← lines.mapM (assembleLine nreg)
  return parts.flatten

end Sys2Proof.Machine
end

