-- ==== Sys2Proof/Safety.lean ====
section
/-! DEFINITION. The words claims are stated in: a running block, frames, the state invariant, what an observer
sees, and the exact integers an accumulator stands for. -/

namespace Sys2Proof.Machine

/-- No fault since reset: a command passes the first check of 60_exceptions.md R44. -/
def State.running (s : State) : Prop := s.faulted = false

/-- A register of the block that a command may read (10_state.md R6). -/
def State.readable (s : State) (r : RegIx) : Prop := r.val < s.nreg ∧ s.valid r = true

/-! ### Frames -/

/-- Every accumulator and `VALID` bit is unchanged, and so is how many there are. -/
def SameFile (s t : State) : Prop := t.file = s.file

/-- Every register but `r` keeps its value and its `VALID` bit (20_memory.md R20), and no register comes
or goes. -/
def SameFileBut (r : RegIx) (s t : State) : Prop :=
  t.nreg = s.nreg ∧ ∀ i : RegIx, i ≠ r → t.acc i = s.acc i ∧ t.valid i = s.valid i

/-- `STATUS` and `FCMD` are unchanged. -/
def SameFault (s t : State) : Prop := t.status = s.status ∧ t.fcmd = s.fcmd

/-- `PF` and `XR` are unchanged. -/
def SameResults (s t : State) : Prop := t.pf = s.pf ∧ t.xr = s.xr

/-- The port side is unchanged: what a command itself never touches. -/
def SamePorts (s t : State) : Prop :=
  t.inReset = s.inReset ∧ t.rspValid = s.rspValid ∧ t.ports = s.ports ∧ t.future = s.future

/-- All of the block's state is unchanged: accumulators, `VALID`, `PF`, `XR`, `STATUS`, `FCMD`
(10_state.md). -/
def SameBlock (s t : State) : Prop := SameFile s t ∧ SameResults s t ∧ SameFault s t

/-- `t` is `s` after a fault with cause `c` (60_exceptions.md R45): FAULT 1, CAUSE the code, FCMD the word
on `cmd`; no accumulator, `VALID` bit, `PF` or `XR` written. -/
def FaultedWith (c : Cause) (s t : State) : Prop :=
  t.faulted = true ∧ t.cause = c.code ∧ t.statusReserved = s.statusReserved ∧ t.fcmd = s.ports.cmd ∧
    SameFile s t ∧ SameResults s t

/-! ### Command words as numbers (30_encoding.md R22): the fields without the decoder's own extraction -/

/-- `op`, bits 3:0, as a number. -/
def opNum (w : CmdWord) : Nat := w.toNat % 16

/-- `rd`, bits 7:4, as a number. -/
def rdNum (w : CmdWord) : Nat := w.toNat / 16 % 16

/-- `rs`, bits 11:8, as a number. -/
def rsNum (w : CmdWord) : Nat := w.toNat / 256 % 16

/-- `z`, bits 15:12, as a number. -/
def zNum (w : CmdWord) : Nat := w.toNat / 4096

/-- The word with these fields and `z = 0`: `0x0SDx` of 30_encoding.md R28. -/
def wordOf (op rd rs : Nat) : CmdWord := BitVec.ofNat 16 (op + 16 * rd + 256 * rs)

/-- The word decodes to no command. -/
def IllegalWord (nreg : Nat) (w : CmdWord) : Prop := ∃ e, decode nreg w = .error e

/-! ### The order of checks, as 60_exceptions.md R44 lists it -/

/-- Does the word name EXU or EXN with a false predicate (60_exceptions.md R43, row RANGE). -/
def rangeViolated (s : State) : Instr → Bool
  | .exu rs => !predU (s.acc rs)
  | .exn rs => !predN (s.acc rs)
  | .seed _ => false
  | .neg _ _ => false
  | .add _ _ => false
  | .isu _ => false
  | .isn _ => false

/-- The one cause the word `w` raises on the registers of `s` in a running block, if any: ILLEGAL, then
UNINIT on every register read, then RANGE (60_exceptions.md R44). -/
def causeOf (s : State) (w : CmdWord) : Option Cause :=
  match decode s.nreg w with
  | .error _ => some .illegal
  | .ok i =>
    if i.reads.all s.valid then (if rangeViolated s i then some .range else none)
    else some .uninit

/-- The cause the command on the port raises. -/
def raisedCause (s : State) : Option Cause := causeOf s s.ports.cmd

/-! ### The invariant -/

/-- A recorded fault is explained by its own record: the word in FCMD, on the registers as they stand, raises
the cause in CAUSE (60_exceptions.md R43, columns condition and recorded; nothing changes a register
after a fault, R46). -/
def RecordExplained (s : State) : Prop :=
  ∃ c, causeOf s s.fcmd = some c ∧ s.cause = c.code

/-- What holds of every state of the block, from reset on. -/
structure State.Inv (s : State) : Prop where
  /-- `NREG` is legal (00_scope.md R1). -/
  nregLegal : Config.legalNreg s.nreg = true
  /-- STATUS bits 7:5 read as zero (10_state.md R9). -/
  reservedZero : s.statusReserved = 0#3
  /-- With no fault, CAUSE is NONE and FCMD reads 0x0000 (10_state.md R9, R10). -/
  noFaultNoRecord : s.faulted = false → s.cause = 0#4 ∧ s.fcmd = 0#16
  /-- With a fault, the record explains it (60_exceptions.md R43). -/
  faultExplained : s.faulted = true → RecordExplained s
  /-- In the cycle after a reset edge every element has its reset value (70_reset_and_hazards.md R52, R53)
  and no response is shown. -/
  inResetCleared : s.inReset = true →
    s.rspValid = false ∧ s.pf = false ∧ s.xr = 0#64 ∧ s.faulted = false ∧ ∀ i, s.valid i = false

/-! ### What an observer can tell apart -/

/-- Two states that differ at most in the bits of unwritten registers (10_state.md R6). -/
structure SameButUnwritten (s t : State) : Prop where
  nreg : s.nreg = t.nreg
  valid : ∀ i, s.valid i = t.valid i
  acc : ∀ i, s.valid i = true → s.acc i = t.acc i
  pf : s.pf = t.pf
  xr : s.xr = t.xr
  status : s.status = t.status
  fcmd : s.fcmd = t.fcmd
  inReset : s.inReset = t.inReset
  rspValid : s.rspValid = t.rspValid
  ports : s.ports = t.ports
  future : s.future = t.future

/-- The outputs after each of `k` edges, first edge first: all a host can see of a run. -/
def trace : Nat → State → List PortOut
  | 0, _ => []
  | k + 1, s =>
    match step s with
    | .next t => outputs t :: trace k t
    | .fault _ => []
    | .refused _ => []

/-! ### Exact integers (70_reset_and_hazards.md R57) -/

/-- The exact, unbounded integer each register stands for. -/
abbrev Exact := RegIx → Int

/-- What a command that runs does to the exact integers: the seed, the negation, the sum, with no modulus. -/
def exactAfter (m : Exact) (din : Word64) : Instr → Exact
  | .seed rd => Function.update m rd (din.toNat : Int)
  | .neg rd rs => Function.update m rd (-(m rs))
  | .add rd rs => Function.update m rd (m rd + m rs)
  | .isu _ => m
  | .exu _ => m
  | .isn _ => m
  | .exn _ => m

/-- Does the command on the port run at the coming edge: accepted, the block running, and no cause raised. -/
def State.runsCommand (s : State) : Bool := s.accepts && !s.faulted && (raisedCause s).isNone

/-- The exact integers after one edge. -/
def exactAfterEdge (m : Exact) (s : State) : Exact :=
  if s.runsCommand then
    match decode s.nreg s.ports.cmd with
    | .ok i => exactAfter m s.ports.din i
    | .error _ => m
  else m

/-- The exact integers after `k` edges of the run from `s`. -/
def exactAfterEdges : Nat → Exact → State → Exact
  | 0, m, _ => m
  | k + 1, m, s =>
    match step s with
    | .next t => exactAfterEdges k (exactAfterEdge m s) t
    | .fault _ => m
    | .refused _ => m

/-- Every written register holds its exact integer reduced modulo `2^96` (70_reset_and_hazards.md R57). -/
def Tracks (s : State) (m : Exact) : Prop :=
  ∀ i, s.valid i = true → ((s.acc i).toNat : Int) = m i % 2 ^ 96

/-- The least integer a 96-bit word denotes (00_scope.md R2). -/
def valMin : Int := -2 ^ 95

/-- The greatest integer a 96-bit word denotes (00_scope.md R2). -/
def valMax : Int := 2 ^ 95 - 1

end Sys2Proof.Machine
end

