-- ==== Sys2Proof/Certificates/Slice0/Obligations.lean ====
section
/-! DEFINITION. The statements for the provers, from the numbered rules of spec/. -/

open Sys2Proof Sys2Proof.Machine

/-! ### Encoding (30_encoding.md) -/

/-- R22 to R26: decoding the word of a command that exists gives the command back, every register field at
every value. -/
def Obligations.DecodeInvertsEncode : Prop :=
  ∀ (nreg : Nat) (i : Instr), i.wellFormed nreg = true → decode nreg (encode i) = .ok i

/-- R24: a command has one word only; the word that decodes to it is the one the encoder gives. -/
def Obligations.EncodeInvertsDecode : Prop :=
  ∀ (nreg : Nat) (w : CmdWord) (i : Instr),
    decode nreg w = .ok i → encode i = w

/-- R24: unused fields and `z` are zero in a legal word, exactly one row of the table matches it, and it is the
command's own row; no word at all matches two rows. -/
def Obligations.LegalWordMatchesExactlyOneRow : Prop :=
  (∀ (nreg : Nat) (w : CmdWord) (i : Instr), decode nreg w = .ok i →
    zNum w = 0 ∧
    (i.opcode = .seed → rsNum w = 0) ∧
    (i.opcode ∈ [Opcode.isu, .exu, .isn, .exn] → rdNum w = 0) ∧
    ∃ r ∈ opRows, r.op = i.opcode ∧ r.matchesWord w = true ∧
      ∀ q ∈ opRows, q.matchesWord w = true → q = r) ∧
  ∀ (w : CmdWord), ∀ r ∈ opRows, ∀ q ∈ opRows,
    r.matchesWord w = true → q.matchesWord w = true → r = q

/-- R25: a legal word's register fields name existing registers; a word that matches a row and names a register
at or beyond `NREG` in a field the row uses is illegal; with `NREG = 16` every word that matches a row is
legal. -/
def Obligations.RegisterFieldsNameExistingRegisters : Prop :=
  (∀ (nreg : Nat) (w : CmdWord), ∀ r ∈ opRows, r.matchesWord w = true →
    (IllegalWord nreg w ↔
      (r.op ∈ [Opcode.seed, .neg, .add] ∧ nreg ≤ rdNum w) ∨
      (r.op ≠ .seed ∧ nreg ≤ rsNum w))) ∧
  ∀ (w : CmdWord), ∀ r ∈ opRows, r.matchesWord w = true → ¬ IllegalWord 16 w

/-- R26: the decoder gives a command exactly on the words of the pseudocode `Decode`, with the fields read as
numbers; and an illegal word, accepted by a running block, is a fault with cause ILLEGAL. -/
def Obligations.DecodeFollowsThePseudocode : Prop :=
  (∀ (nreg : Nat) (w : CmdWord) (i : Instr), decode nreg w = .ok i ↔
    zNum w = 0 ∧
    match i with
    | .seed rd => opNum w = 1 ∧ rsNum w = 0 ∧ rdNum w = rd.val ∧ rd.val < nreg
    | .neg rd rs => opNum w = 2 ∧ rdNum w = rd.val ∧ rsNum w = rs.val ∧ rd.val < nreg ∧ rs.val < nreg
    | .add rd rs => opNum w = 3 ∧ rdNum w = rd.val ∧ rsNum w = rs.val ∧ rd.val < nreg ∧ rs.val < nreg
    | .isu rs => opNum w = 4 ∧ rdNum w = 0 ∧ rsNum w = rs.val ∧ rs.val < nreg
    | .exu rs => opNum w = 5 ∧ rdNum w = 0 ∧ rsNum w = rs.val ∧ rs.val < nreg
    | .isn rs => opNum w = 6 ∧ rdNum w = 0 ∧ rsNum w = rs.val ∧ rs.val < nreg
    | .exn rs => opNum w = 7 ∧ rdNum w = 0 ∧ rsNum w = rs.val ∧ rs.val < nreg) ∧
  ∀ (s : State), s.running → s.accepts = true → IllegalWord s.nreg s.ports.cmd →
    ∃ t, step s = .next t ∧ FaultedWith .illegal s t

/-- 95_test_vectors.md section 2.1: words written out from the encoding decode as listed, `NREG = 4`, and as
listed for `NREG = 16`. -/
def Obligations.ListedWordsDecodeAsListed : Prop :=
  decode 4 0x0031#16 = .ok (.seed 3) ∧ decode 4 0x0312#16 = .ok (.neg 1 3) ∧
  decode 4 0x0103#16 = .ok (.add 0 1) ∧ decode 4 0x0304#16 = .ok (.isu 3) ∧
  decode 4 0x0205#16 = .ok (.exu 2) ∧ decode 4 0x0106#16 = .ok (.isn 1) ∧
  decode 4 0x0007#16 = .ok (.exn 0) ∧
  decode 4 0x0041#16 = .error .noSuchRegister ∧ decode 4 0x0101#16 = .error .unusedField ∧
  decode 4 0x0014#16 = .error .unusedField ∧ decode 4 0x0000#16 = .error .reservedOpcode ∧
  decode 4 0x000F#16 = .error .reservedOpcode ∧ decode 4 0x1103#16 = .error .reservedField ∧
  decode 16 0x0041#16 = .ok (.seed 4) ∧ decode 16 0x0052#16 = .ok (.neg 5 0) ∧
  decode 16 0x0403#16 = .ok (.add 0 4)

/-- R28: each form's words and `din`; a register beyond `NREG-1` and a seed outside `[0, 2^64-1]` are refused. -/
def Obligations.AssemblerFormsGiveTheListedWords : Prop :=
  ∀ (nreg : Nat) (d s : RegIx), d.val < nreg → s.val < nreg →
    (∀ u : Word64, assemble nreg (.seed d.val (u.toNat : Int)) = .ok [(wordOf 1 d.val 0, u)]) ∧
    assemble nreg (.neg d.val s.val) = .ok [(wordOf 2 d.val s.val, 0#64)] ∧
    assemble nreg (.add d.val s.val) = .ok [(wordOf 3 d.val s.val, 0#64)] ∧
    assemble nreg (.isu s.val) = .ok [(wordOf 4 0 s.val, 0#64)] ∧
    assemble nreg (.exu s.val) = .ok [(wordOf 5 0 s.val, 0#64)] ∧
    assemble nreg (.isn s.val) = .ok [(wordOf 6 0 s.val, 0#64)] ∧
    assemble nreg (.exn s.val) = .ok [(wordOf 7 0 s.val, 0#64)] ∧
    (∀ u : Int, u < 0 ∨ 2 ^ 64 ≤ u → assemble nreg (.seed d.val u) = .error .seedOutOfRange) ∧
    ∀ (n : Nat) (u : Int), nreg ≤ n →
      assemble nreg (.seed n u) = .error .noSuchRegister ∧
      assemble nreg (.neg n s.val) = .error .noSuchRegister ∧
      assemble nreg (.neg d.val n) = .error .noSuchRegister ∧
      assemble nreg (.add n s.val) = .error .noSuchRegister ∧
      assemble nreg (.add d.val n) = .error .noSuchRegister ∧
      assemble nreg (.isu n) = .error .noSuchRegister ∧
      assemble nreg (.exu n) = .error .noSuchRegister ∧
      assemble nreg (.isn n) = .error .noSuchRegister ∧
      assemble nreg (.exn n) = .error .noSuchRegister

/-- R29: each pseudo-instruction's expansion, and its effect when a running block runs it at the next edges, with no
fault; an `NSEED` operand outside `[0, 2^64-1]` and `SUB` with `T = D` are refused; `SUB` with `T = S` leaves `a[S]`
negated. -/
def Obligations.PseudoInstructionsHaveTheListedEffects : Prop :=
  ∀ (s : State), s.running →
    (∀ d : RegIx, d.val < s.nreg →
      let cs := [(wordOf 1 d.val 0, 0#64)]
      assemble s.nreg (.clr d.val) = .ok cs ∧
      ∃ t, Sys2Proof.core.run 1 (s.withCommands cs) = .next t ∧ t.acc d = 0#96 ∧ t.valid d = true ∧
        SameFileBut d s t ∧ SameResults s t ∧ SameFault s t) ∧
    (∀ (d : RegIx) (u : Word64), d.val < s.nreg →
      let cs := [(wordOf 1 d.val 0, u), (wordOf 2 d.val d.val, 0#64)]
      assemble s.nreg (.nseed d.val (u.toNat : Int)) = .ok cs ∧
      ∃ t, Sys2Proof.core.run 2 (s.withCommands cs) = .next t ∧
        t.acc d = -(u.setWidth 96) ∧ t.valid d = true ∧
        SameFileBut d s t ∧ SameResults s t ∧ SameFault s t) ∧
    (∀ (d : RegIx) (u : Int), d.val < s.nreg → u < 0 ∨ 2 ^ 64 ≤ u →
      assemble s.nreg (.nseed d.val u) = .error .seedOutOfRange) ∧
    (∀ d r : RegIx, d.val < s.nreg → s.readable r →
      let cs := [(wordOf 2 d.val r.val, 0#64), (wordOf 2 d.val d.val, 0#64)]
      assemble s.nreg (.mov d.val r.val) = .ok cs ∧
      ∃ t, Sys2Proof.core.run 2 (s.withCommands cs) = .next t ∧ t.acc d = s.acc r ∧ t.valid d = true ∧
        SameFileBut d s t ∧ SameResults s t ∧ SameFault s t) ∧
    (∀ d r q : RegIx, s.readable d → s.readable r → q.val < s.nreg → q ≠ d →
      let cs := [(wordOf 2 q.val r.val, 0#64), (wordOf 3 d.val q.val, 0#64)]
      assemble s.nreg (.sub d.val r.val q.val) = .ok cs ∧
      ∃ t, Sys2Proof.core.run 2 (s.withCommands cs) = .next t ∧
        t.acc d = s.acc d - s.acc r ∧ t.acc q = -(s.acc r) ∧ t.valid d = true ∧ t.valid q = true ∧
        (∀ i : RegIx, i ≠ d → i ≠ q → t.acc i = s.acc i ∧ t.valid i = s.valid i) ∧
        SameResults s t ∧ SameFault s t) ∧
    ∀ d r : RegIx, d.val < s.nreg → r.val < s.nreg →
      assemble s.nreg (.sub d.val r.val d.val) = .error .scratchIsDestination

/-! ### Words and arithmetic (00_scope.md R2, 10_state.md R5, 40_arith.md) -/

/-- R2: `val` lies in `[-2^95, 2^95-1]`, is the formula of the rule, and every integer of the range is the value
of exactly one word. -/
def Obligations.EveryWordDenotesOneInteger : Prop :=
  (∀ x : Word96, val x = (x.toNat : Int) - 2 ^ 96 * (if x.getLsbD 95 then 1 else 0) ∧
    -2 ^ 95 ≤ val x ∧ val x ≤ 2 ^ 95 - 1) ∧
  ∀ n : Int, -2 ^ 95 ≤ n → n ≤ 2 ^ 95 - 1 → ∃! x : Word96, val x = n

/-- R5: a word is its three limbs, and the low 64 bits are `{L1, L0}`. -/
def Obligations.WordIsItsThreeLimbs : Prop :=
  ∀ x : Word96,
    x.toNat = (limb0 x).toNat + 2 ^ 32 * (limb1 x).toNat + 2 ^ 64 * (limb2 x).toNat ∧
    x = ofLimbs (limb2 x) (limb1 x) (limb0 x) ∧
    (low64 x).toNat = (limb0 x).toNat + 2 ^ 32 * (limb1 x).toNat

/-- R30: `ADD96` limb by limb with the carries of the rule, and as a whole: the unsigned sum modulo `2^96`, and
the signed sum reduced into `[-2^95, 2^95-1]` modulo `2^96`. -/
def Obligations.AdditionRipplesModulo96Bits : Prop :=
  ∀ x y : Word96,
    let c1 := ((limb0 x).toNat + (limb0 y).toNat) / 2 ^ 32
    let c2 := ((limb1 x).toNat + (limb1 y).toNat + c1) / 2 ^ 32
    (limb0 (add96 x y)).toNat = ((limb0 x).toNat + (limb0 y).toNat) % 2 ^ 32 ∧
    (limb1 (add96 x y)).toNat = ((limb1 x).toNat + (limb1 y).toNat + c1) % 2 ^ 32 ∧
    (limb2 (add96 x y)).toNat = ((limb2 x).toNat + (limb2 y).toNat + c2) % 2 ^ 32 ∧
    (add96 x y).toNat = (x.toNat + y.toNat) % 2 ^ 96 ∧
    val (add96 x y) = (val x + val y).bmod (2 ^ 96)

/-- R31: `NEG96` is complement plus one, `2^96 - uns(x)` modulo `2^96`; zero and the most-negative value negate to
themselves, and negation is self-inverse. -/
def Obligations.NegationIsComplementPlusOne : Prop :=
  (∀ x : Word96,
    (neg96 x).toNat = (2 ^ 96 - x.toNat) % 2 ^ 96 ∧
    neg96 x = add96 (~~~x) 1#96 ∧
    neg96 (neg96 x) = x) ∧
  neg96 0#96 = 0#96 ∧
  neg96 0x800000000000000000000000#96 = 0x800000000000000000000000#96

/-- R35: the six laws. -/
def Obligations.ArithmeticLaws : Prop :=
  ∀ x y z : Word96,
    add96 x y = add96 y x ∧
    add96 (add96 x y) z = add96 x (add96 y z) ∧
    add96 x (zext96 0#64) = x ∧
    neg96 (neg96 x) = x ∧
    add96 x (neg96 x) = 0#96 ∧
    add96 (add96 x y) (neg96 y) = x ∧
    (neg96 x = x ↔ x = 0#96 ∨ x = 0x800000000000000000000000#96) ∧
    (valMin ≤ val x + val y ∧ val x + val y ≤ valMax → val (add96 x y) = val x + val y) ∧
    (val x + val y < valMin → val (add96 x y) = val x + val y + 2 ^ 96) ∧
    (valMax < val x + val y → val (add96 x y) = val x + val y - 2 ^ 96)

/-- R57's sufficient bounds: the sum of at most `2^31` values of `[-(2^64-1), 2^64-1]`, or of at most `2^32` values of
`[-2^63, 2^63-1]`, is the integer sum, with no wraparound, however the fold goes on the way. -/
def Obligations.CapacityBoundsSuffice : Prop :=
  ∀ vs : List Word96,
    (vs.length ≤ 2 ^ 31 ∧ (∀ v ∈ vs, -(2 ^ 64 - 1) ≤ val v ∧ val v ≤ 2 ^ 64 - 1)) ∨
    (vs.length ≤ 2 ^ 32 ∧ (∀ v ∈ vs, -2 ^ 63 ≤ val v ∧ val v ≤ 2 ^ 63 - 1)) →
    val (vs.foldl add96 0#96) = (vs.map val).sum

/-! ### The predicates and the bands (41_extract.md R36, R37, R42) -/

/-- R36: `PredU` is "the top limb is zero", is "the value lies in `[0, 2^64-1]`", is the zero-extension test, and then
the value is the low 64 bits read as unsigned. -/
def Obligations.UnsignedPredicateIsTheRange : Prop :=
  ∀ x : Word96,
    (predU x = true ↔ limb2 x = 0#32) ∧
    (predU x = true ↔ 0 ≤ val x ∧ val x ≤ 2 ^ 64 - 1) ∧
    (predU x = true ↔ x = zext96 (low64 x)) ∧
    (predU x = true → val x = ((low64 x).toNat : Int))

/-- R37: `PredN` is "the top limb is all ones and bit 63 is set", is "the value lies in `[-2^63, -1]`", is the
sign-extension test on negative values, and then the value is the low 64 bits read as signed; the top limb all
ones with bit 63 clear is a value of `[-2^64, -2^63-1]`. -/
def Obligations.NegativePredicateIsTheRange : Prop :=
  ∀ x : Word96,
    (predN x = true ↔ limb2 x = 0xFFFFFFFF#32 ∧ x.getLsbD 63 = true) ∧
    (predN x = true ↔ -2 ^ 63 ≤ val x ∧ val x ≤ -1) ∧
    (predN x = true ↔ x.getLsbD 63 = true ∧ x = (low64 x).signExtend 96) ∧
    (predN x = true → val x = sgn64 (low64 x)) ∧
    (limb2 x = 0xFFFFFFFF#32 ∧ x.getLsbD 63 = false ↔ -2 ^ 64 ≤ val x ∧ val x ≤ -2 ^ 63 - 1)

/-- R42: the four bands, each with its condition, its range of values, its two predicates, and what EXU and EXN do
on it; and the consequences for zero, `2^64` and seeded values. -/
def Obligations.FourBandsPartitionTheWords : Prop :=
  (∀ x : Word96,
    (band x = .u ↔ limb2 x = 0#32) ∧
    (band x = .n ↔ limb2 x = 0xFFFFFFFF#32 ∧ x.getLsbD 63 = true) ∧
    (band x = .g ↔ limb2 x = 0xFFFFFFFF#32 ∧ x.getLsbD 63 = false) ∧
    (band x = .w ↔ limb2 x ≠ 0#32 ∧ limb2 x ≠ 0xFFFFFFFF#32) ∧
    (band x = .u ↔ 0 ≤ val x ∧ val x ≤ 2 ^ 64 - 1) ∧
    (band x = .n ↔ -2 ^ 63 ≤ val x ∧ val x ≤ -1) ∧
    (band x = .g ↔ -2 ^ 64 ≤ val x ∧ val x ≤ -2 ^ 63 - 1) ∧
    (band x = .w ↔ (2 ^ 64 ≤ val x ∧ val x ≤ 2 ^ 95 - 1) ∨ (-2 ^ 95 ≤ val x ∧ val x ≤ -2 ^ 64 - 1)) ∧
    (predU x = true ↔ band x = .u) ∧ (predN x = true ↔ band x = .n) ∧
    ¬ (predU x = true ∧ predN x = true)) ∧
  (∀ (s : State) (rs : RegIx), s.running → s.readable rs →
    (∃ t, exec (.exu rs) s = .next t ∧
      if band (s.acc rs) = .u then t.xr = low64 (s.acc rs) ∧ t.faulted = false
      else FaultedWith .range s t) ∧
    ∃ t, exec (.exn rs) s = .next t ∧
      if band (s.acc rs) = .n then t.xr = low64 (s.acc rs) ∧ t.faulted = false
      else FaultedWith .range s t) ∧
  band 0#96 = .u ∧ band 0x000000010000000000000000#96 = .w ∧ ∀ u : Word64, band (zext96 u) = .u

/-! ### The seven commands: encoding, words refused, effect and frame, faults -/

/-- R32: SEED; and it alone makes an unwritten register valid without reading another register. -/
def Obligations.SeedWritesZeroExtendedDin : Prop :=
  (∀ rd : RegIx, encode (.seed rd) = wordOf 1 rd.val 0) ∧
  (∀ (nreg : Nat) (rd : RegIx) (u : Word64), rd.val < nreg →
    assemble nreg (.seed rd.val (u.toNat : Int)) = .ok [(encode (.seed rd), u)]) ∧
  (∀ (nreg : Nat) (w : CmdWord), opNum w = 1 →
    (IllegalWord nreg w ↔ rsNum w ≠ 0 ∨ zNum w ≠ 0 ∨ nreg ≤ rdNum w)) ∧
  (∀ (s : State) (rd : RegIx), s.running → rd.val < s.nreg →
    ∃ t, exec (.seed rd) s = .next t ∧
      t.acc rd = s.ports.din.setWidth 96 ∧ t.valid rd = true ∧ band (t.acc rd) = .u ∧
      SameFileBut rd s t ∧ SameResults s t ∧ SameFault s t ∧ SamePorts s t) ∧
  (∀ (s : State) (rd : RegIx), s.running → s.nreg ≤ rd.val →
    ∃ t, exec (.seed rd) s = .next t ∧ FaultedWith .illegal s t ∧ SamePorts s t) ∧
  ∀ (s t : State) (i : Instr) (r : RegIx), exec i s = .next t → s.valid r = false → t.valid r = true →
    i = .seed r ∨ ∃ q, i = .neg r q ∧ s.valid q = true

/-- R33: NEG, `rd = rs` and `rd` unwritten included. -/
def Obligations.NegWritesTheNegation : Prop :=
  (∀ rd rs : RegIx, encode (.neg rd rs) = wordOf 2 rd.val rs.val) ∧
  (∀ (nreg : Nat) (rd rs : RegIx), rd.val < nreg → rs.val < nreg →
    assemble nreg (.neg rd.val rs.val) = .ok [(encode (.neg rd rs), 0#64)]) ∧
  (∀ (nreg : Nat) (w : CmdWord), opNum w = 2 →
    (IllegalWord nreg w ↔ zNum w ≠ 0 ∨ nreg ≤ rdNum w ∨ nreg ≤ rsNum w)) ∧
  (∀ (s : State) (rd rs : RegIx), s.running → rd.val < s.nreg → s.readable rs →
    ∃ t, exec (.neg rd rs) s = .next t ∧
      t.acc rd = neg96 (s.acc rs) ∧ t.valid rd = true ∧
      SameFileBut rd s t ∧ SameResults s t ∧ SameFault s t ∧ SamePorts s t) ∧
  ∀ (s : State) (rd rs : RegIx), s.running →
    (s.nreg ≤ rd.val ∨ s.nreg ≤ rs.val →
      ∃ t, exec (.neg rd rs) s = .next t ∧ FaultedWith .illegal s t ∧ SamePorts s t) ∧
    (rd.val < s.nreg → rs.val < s.nreg → s.valid rs = false →
      ∃ t, exec (.neg rd rs) s = .next t ∧ FaultedWith .uninit s t ∧ SamePorts s t)

/-- R34: ADD, `rd = rs` included; both operands are the values before the write. -/
def Obligations.AddWritesTheSum : Prop :=
  (∀ rd rs : RegIx, encode (.add rd rs) = wordOf 3 rd.val rs.val) ∧
  (∀ (nreg : Nat) (rd rs : RegIx), rd.val < nreg → rs.val < nreg →
    assemble nreg (.add rd.val rs.val) = .ok [(encode (.add rd rs), 0#64)]) ∧
  (∀ (nreg : Nat) (w : CmdWord), opNum w = 3 →
    (IllegalWord nreg w ↔ zNum w ≠ 0 ∨ nreg ≤ rdNum w ∨ nreg ≤ rsNum w)) ∧
  (∀ (s : State) (rd rs : RegIx), s.running → s.readable rd → s.readable rs →
    ∃ t, exec (.add rd rs) s = .next t ∧
      t.acc rd = add96 (s.acc rd) (s.acc rs) ∧ t.valid rd = true ∧
      SameFileBut rd s t ∧ SameResults s t ∧ SameFault s t ∧ SamePorts s t) ∧
  ∀ (s : State) (rd rs : RegIx), s.running →
    (s.nreg ≤ rd.val ∨ s.nreg ≤ rs.val →
      ∃ t, exec (.add rd rs) s = .next t ∧ FaultedWith .illegal s t ∧ SamePorts s t) ∧
    (rd.val < s.nreg → rs.val < s.nreg → s.valid rd = false ∨ s.valid rs = false →
      ∃ t, exec (.add rd rs) s = .next t ∧ FaultedWith .uninit s t ∧ SamePorts s t)

/-- R38: ISU; a false result is no fault. -/
def Obligations.IsuWritesTheUnsignedPredicate : Prop :=
  (∀ rs : RegIx, encode (.isu rs) = wordOf 4 0 rs.val) ∧
  (∀ (nreg : Nat) (rs : RegIx), rs.val < nreg →
    assemble nreg (.isu rs.val) = .ok [(encode (.isu rs), 0#64)]) ∧
  (∀ (nreg : Nat) (w : CmdWord), opNum w = 4 →
    (IllegalWord nreg w ↔ rdNum w ≠ 0 ∨ zNum w ≠ 0 ∨ nreg ≤ rsNum w)) ∧
  (∀ (s : State) (rs : RegIx), s.running → s.readable rs →
    ∃ t, exec (.isu rs) s = .next t ∧
      t.pf = decide (limb2 (s.acc rs) = 0#32) ∧ t.xr = s.xr ∧
      SameFile s t ∧ SameFault s t ∧ SamePorts s t) ∧
  ∀ (s : State) (rs : RegIx), s.running →
    (s.nreg ≤ rs.val → ∃ t, exec (.isu rs) s = .next t ∧ FaultedWith .illegal s t ∧ SamePorts s t) ∧
    (rs.val < s.nreg → s.valid rs = false →
      ∃ t, exec (.isu rs) s = .next t ∧ FaultedWith .uninit s t ∧ SamePorts s t)

/-- R39: EXU. -/
def Obligations.ExuReadsTheLowBitsOrFaultsRange : Prop :=
  (∀ rs : RegIx, encode (.exu rs) = wordOf 5 0 rs.val) ∧
  (∀ (nreg : Nat) (rs : RegIx), rs.val < nreg →
    assemble nreg (.exu rs.val) = .ok [(encode (.exu rs), 0#64)]) ∧
  (∀ (nreg : Nat) (w : CmdWord), opNum w = 5 →
    (IllegalWord nreg w ↔ rdNum w ≠ 0 ∨ zNum w ≠ 0 ∨ nreg ≤ rsNum w)) ∧
  (∀ (s : State) (rs : RegIx), s.running → s.readable rs → predU (s.acc rs) = true →
    ∃ t, exec (.exu rs) s = .next t ∧
      t.xr = (s.acc rs).extractLsb' 0 64 ∧ val (s.acc rs) = (t.xr.toNat : Int) ∧ t.pf = s.pf ∧
      SameFile s t ∧ SameFault s t ∧ SamePorts s t) ∧
  ∀ (s : State) (rs : RegIx), s.running →
    (s.nreg ≤ rs.val → ∃ t, exec (.exu rs) s = .next t ∧ FaultedWith .illegal s t ∧ SamePorts s t) ∧
    (rs.val < s.nreg → s.valid rs = false →
      ∃ t, exec (.exu rs) s = .next t ∧ FaultedWith .uninit s t ∧ SamePorts s t) ∧
    (s.readable rs → predU (s.acc rs) = false →
      ∃ t, exec (.exu rs) s = .next t ∧ FaultedWith .range s t ∧ SamePorts s t)

/-- R40: ISN; a false result is no fault. -/
def Obligations.IsnWritesTheNegativePredicate : Prop :=
  (∀ rs : RegIx, encode (.isn rs) = wordOf 6 0 rs.val) ∧
  (∀ (nreg : Nat) (rs : RegIx), rs.val < nreg →
    assemble nreg (.isn rs.val) = .ok [(encode (.isn rs), 0#64)]) ∧
  (∀ (nreg : Nat) (w : CmdWord), opNum w = 6 →
    (IllegalWord nreg w ↔ rdNum w ≠ 0 ∨ zNum w ≠ 0 ∨ nreg ≤ rsNum w)) ∧
  (∀ (s : State) (rs : RegIx), s.running → s.readable rs →
    ∃ t, exec (.isn rs) s = .next t ∧
      t.pf = (decide (limb2 (s.acc rs) = 0xFFFFFFFF#32) && (s.acc rs).getLsbD 63) ∧ t.xr = s.xr ∧
      SameFile s t ∧ SameFault s t ∧ SamePorts s t) ∧
  ∀ (s : State) (rs : RegIx), s.running →
    (s.nreg ≤ rs.val → ∃ t, exec (.isn rs) s = .next t ∧ FaultedWith .illegal s t ∧ SamePorts s t) ∧
    (rs.val < s.nreg → s.valid rs = false →
      ∃ t, exec (.isn rs) s = .next t ∧ FaultedWith .uninit s t ∧ SamePorts s t)

/-- R41: EXN; on success the result read as signed is the value, and negative. -/
def Obligations.ExnReadsTheLowBitsOrFaultsRange : Prop :=
  (∀ rs : RegIx, encode (.exn rs) = wordOf 7 0 rs.val) ∧
  (∀ (nreg : Nat) (rs : RegIx), rs.val < nreg →
    assemble nreg (.exn rs.val) = .ok [(encode (.exn rs), 0#64)]) ∧
  (∀ (nreg : Nat) (w : CmdWord), opNum w = 7 →
    (IllegalWord nreg w ↔ rdNum w ≠ 0 ∨ zNum w ≠ 0 ∨ nreg ≤ rsNum w)) ∧
  (∀ (s : State) (rs : RegIx), s.running → s.readable rs → predN (s.acc rs) = true →
    ∃ t, exec (.exn rs) s = .next t ∧
      t.xr = (s.acc rs).extractLsb' 0 64 ∧ sgn64 t.xr = val (s.acc rs) ∧ t.xr.getLsbD 63 = true ∧
      t.pf = s.pf ∧ SameFile s t ∧ SameFault s t ∧ SamePorts s t) ∧
  ∀ (s : State) (rs : RegIx), s.running →
    (s.nreg ≤ rs.val → ∃ t, exec (.exn rs) s = .next t ∧ FaultedWith .illegal s t ∧ SamePorts s t) ∧
    (rs.val < s.nreg → s.valid rs = false →
      ∃ t, exec (.exn rs) s = .next t ∧ FaultedWith .uninit s t ∧ SamePorts s t) ∧
    (s.readable rs → predN (s.acc rs) = false →
      ∃ t, exec (.exn rs) s = .next t ∧ FaultedWith .range s t ∧ SamePorts s t)

/-- R49: no value of the operands makes SEED, NEG or ADD fault, wraparound and the negation of `-2^95` included, and none
of it is recorded anywhere: nothing but the destination register changes. A predicate command whose result is 0 does
not fault: ISU and ISN write PF alone. -/
def Obligations.WraparoundAndFalsePredicatesAreNoFaults : Prop :=
  ∀ (s : State) (i : Instr), s.running → i.wellFormed s.nreg = true → (∀ r ∈ i.reads, s.valid r = true) →
    i.opcode ∈ [Opcode.seed, .neg, .add, .isu, .isn] →
    ∃ t, exec i s = .next t ∧ t.running ∧ SameFault s t ∧ SamePorts s t ∧ t.xr = s.xr ∧
      (i.opcode ∈ [Opcode.seed, .neg, .add] →
        SameResults s t ∧ ∀ r, i.dest = some r → SameFileBut r s t) ∧
      (i.opcode ∈ [Opcode.isu, .isn] → SameFile s t)

/-- R20: a command neither reads nor writes a register it does not name (putting any content, written or not, into
such a register before the command is the same as putting it there after), and writes at most its destination. -/
def Obligations.CommandsTouchOnlyTheRegistersTheyName : Prop :=
  (∀ (i : Instr) (s : State) (r : RegIx) (a : AccReg), r ∉ i.regs →
    exec i { s with file := s.file.set r.val a } =
      onNext (fun t => { t with file := t.file.set r.val a }) (exec i s)) ∧
  ∀ (i : Instr) (s t : State) (r : RegIx), exec i s = .next t → i.dest ≠ some r →
    t.acc r = s.acc r ∧ t.valid r = s.valid r

/-! ### The command step and faults (60_exceptions.md) -/

/-- R44: every edge has a next state. -/
def Obligations.EveryStepHasANextState : Prop :=
  ∀ s : State, ∃ t, step s = .next t

/-- R44 and R14, what the step adds around exec: an accepted command of a running block that decodes to `i` runs
`exec i` completely at the edge, and then the edge only shows the answer and moves the host's inputs on. -/
def Obligations.StepRunsTheDecodedCommand : Prop :=
  ∀ (s : State) (i : Instr), s.accepts = true → s.running → decode s.nreg s.ports.cmd = .ok i →
    ∃ t, exec i s = .next t ∧
      step s = .next { t with
        inReset := false
        rspValid := true
        ports := s.future.headD PortIn.idle
        future := s.future.tail }

/-- The helper `withFetchWord` (assumption log 5) puts a command where the next step takes it: the step runs exactly it. -/
def Obligations.FetchWordIsTheNextCommandRun : Prop :=
  ∀ (s : State) (i : Instr), s.running → i.wellFormed s.nreg = true →
    let p := s.withFetchWord 16 (encode i).toNat
    p.file = s.file ∧ ∃ t, exec i p = .next t ∧
      step p = .next { t with
        inReset := false
        rspValid := true
        ports := s.future.headD PortIn.idle
        future := s.future.tail }

/-- R44: what an accepted command does, in the order of the checks: nothing while FAULT is 1; else ILLEGAL where the word
decodes to nothing; else UNINIT where a register it reads is unwritten; else RANGE where an extractor's predicate is
false; else its own rule, and no fault. -/
def Obligations.FirstApplicableCauseIsRaised : Prop :=
  ∀ s : State, s.accepts = true →
    ∃ t, step s = .next t ∧
      (s.faulted = true → SameBlock s t) ∧
      (s.running → IllegalWord s.nreg s.ports.cmd → FaultedWith .illegal s t) ∧
      ∀ i, s.running → decode s.nreg s.ports.cmd = .ok i →
        if ∃ r ∈ i.reads, s.valid r = false then FaultedWith .uninit s t
        else if rangeViolated s i = true then FaultedWith .range s t
        else t.running ∧ ∃ u, exec i s = .next u ∧ SameBlock u t

/-- R43: after an accepted command of a running block, which command and condition each CAUSE code stands for. -/
def Obligations.CauseCodesMeanTheirConditions : Prop :=
  ∀ s : State, s.Inv → s.running → s.accepts = true →
    ∃ t, step s = .next t ∧
      (t.cause = 0x0#4 ↔ t.faulted = false) ∧
      (t.faulted = false → t.fcmd = 0x0000#16) ∧
      (t.faulted = true → t.fcmd = s.ports.cmd) ∧
      (t.cause = 0x1#4 ↔ ∃ rs, s.readable rs ∧
        ((decode s.nreg s.ports.cmd = .ok (.exu rs) ∧ predU (s.acc rs) = false) ∨
         (decode s.nreg s.ports.cmd = .ok (.exn rs) ∧ predN (s.acc rs) = false))) ∧
      (t.cause = 0x2#4 ↔ IllegalWord s.nreg s.ports.cmd) ∧
      (t.cause = 0x3#4 ↔ ∃ i, decode s.nreg s.ports.cmd = .ok i ∧ ∃ r ∈ i.reads, s.valid r = false) ∧
      t.cause.toNat < 4

/-- R45: taking a fault writes FAULT, CAUSE and FCMD and nothing else of the state; and a command of a running block that
raises a cause does that and nothing else to the block. -/
def Obligations.FaultEntryWritesOnlyStatusAndFcmd : Prop :=
  (∀ (s : State) (c : Cause),
    let t := s.takeFault c
    t.faulted = true ∧ t.cause = c.code ∧ t.fcmd = s.ports.cmd ∧
    t = { s with status := t.status, fcmd := t.fcmd } ∧
    ∀ k < 3, t.status.getLsbD (5 + k) = s.status.getLsbD (5 + k)) ∧
  ∀ (s : State) (c : Cause), s.running → s.accepts = true → raisedCause s = some c →
    ∃ t, step s = .next t ∧ SameBlock (s.takeFault c) t

/-- R46: while FAULT is 1 an accepted command changes no state, is answered, and the block stays ready. -/
def Obligations.FaultedBlockSilencesCommands : Prop :=
  ∀ s : State, s.faulted = true → s.accepts = true →
    ∃ t, step s = .next t ∧ SameBlock s t ∧ t.rspValid = true ∧ t.cmdReady = true ∧
      response t = response s

/-- R47: over any number of edges without reset a faulted block keeps its whole state; one edge with reset leaves the
faulted state and clears every VALID bit. -/
def Obligations.OnlyResetLeavesTheFaultedState : Prop :=
  (∀ (k : Nat) (s : State), s.faulted = true →
    (∀ p ∈ (s.ports :: s.future).take k, p.rstN = true) →
    ∃ t, Sys2Proof.core.run k s = .next t ∧ SameBlock s t) ∧
  ∀ s : State, s.ports.rstN = false →
    ∃ t, step s = .next t ∧ t.faulted = false ∧ t.fcmd = 0#16 ∧ ∀ i, t.valid i = false

/-! ### What each edge may do to each element (10_state.md R6 to R10) -/

/-- R7: PF after any edge (the predicate where ISU or ISN ran, 0 after reset, unchanged otherwise); and no command reads
PF: with another PF before it, a command leaves the same state but for PF. -/
def Obligations.PredicateFlagIsWrittenByIsuAndIsnOnly : Prop :=
  (∀ s t : State, step s = .next t →
    (s.ports.rstN = false → t.pf = false) ∧
    (∀ r, s.runsCommand = true → decode s.nreg s.ports.cmd = .ok (.isu r) → t.pf = predU (s.acc r)) ∧
    (∀ r, s.runsCommand = true → decode s.nreg s.ports.cmd = .ok (.isn r) → t.pf = predN (s.acc r)) ∧
    (s.ports.rstN = true →
      (∀ r, s.runsCommand = true → decode s.nreg s.ports.cmd ≠ .ok (.isu r) ∧
        decode s.nreg s.ports.cmd ≠ .ok (.isn r)) → t.pf = s.pf)) ∧
  ∀ (i : Instr) (s : State) (b : Bool),
    ∃ t u, exec i s = .next t ∧ exec i (s.writePf b) = .next u ∧ u.writePf t.pf = t

/-- R8: XR after any edge. -/
def Obligations.ExtractResultIsWrittenByExuAndExnOnly : Prop :=
  ∀ s t : State, step s = .next t →
    (s.ports.rstN = false → t.xr = 0#64) ∧
    (∀ r, s.runsCommand = true →
      decode s.nreg s.ports.cmd = .ok (.exu r) ∨ decode s.nreg s.ports.cmd = .ok (.exn r) →
      t.xr = (s.acc r).extractLsb' 0 64) ∧
    (s.ports.rstN = true →
      (∀ r, s.runsCommand = true → decode s.nreg s.ports.cmd ≠ .ok (.exu r) ∧
        decode s.nreg s.ports.cmd ≠ .ok (.exn r)) → t.xr = s.xr)

/-- R9 and R10: an accepted command of an unfaulted block that raises a cause sets FAULT, CAUSE and FCMD; reset clears
them; nothing else writes them; and after an edge from a state that meets the invariant CAUSE is 0 exactly while FAULT is 0, is one of the four codes, the reserved bits read
as zero, and FCMD reads 0x0000 while FAULT is 0. -/
def Obligations.StatusAndFcmdRecordTheFirstFault : Prop :=
  ∀ s t : State, step s = .next t →
    (s.ports.rstN = false → t.status = 0#8 ∧ t.fcmd = 0#16) ∧
    (s.ports.rstN = true → s.faulted = true → SameFault s t) ∧
    (∀ c, s.accepts = true → s.faulted = false → raisedCause s = some c →
      t.faulted = true ∧ t.cause = c.code ∧ t.statusReserved = s.statusReserved ∧ t.fcmd = s.ports.cmd) ∧
    (s.ports.rstN = true → s.faulted = false → s.accepts = false ∨ raisedCause s = none → SameFault s t) ∧
    (s.Inv → (t.cause = 0#4 ↔ t.faulted = false) ∧ t.cause.toNat < 4 ∧ t.statusReserved = 0#3 ∧
      (t.faulted = false → t.fcmd = 0x0000#16))

/-- R9, R10, R43, R1: the invariant holds after reset, for every legal `NREG`. -/
def Obligations.ResetStateMeetsTheInvariant : Prop :=
  (∀ n, Config.legalNreg n = true → (State.resetWith n).Inv ∧ (State.resetWith n).nreg = n) ∧
    State.reset.Inv

/-- Every step keeps the invariant: a legal `NREG`, STATUS's reserved bits zero, CAUSE and FCMD clear while there is
no fault, a recorded fault explained by its own record on the registers as they stand, and every element at its
reset value in the cycle after a reset edge. -/
def Obligations.EveryStepKeepsTheInvariant : Prop :=
  ∀ s t : State, s.Inv → step s = .next t → t.Inv

/-- R6: VALID after any edge (cleared by reset, set by a SEED or NEG that runs, written by nothing else); a command that
reads an unwritten register faults UNINIT; and the bits of an unwritten register are never observable: two states
that differ only in them show the same outputs at every edge of every run, and stay so related. -/
def Obligations.UnwrittenRegistersFaultAndAreNeverObserved : Prop :=
  (∀ (s t : State) (r : RegIx), r.val < s.nreg → step s = .next t →
    (t.valid r = true ↔
      s.ports.rstN = true ∧
        (s.valid r = true ∨
          (s.runsCommand = true ∧
            (decode s.nreg s.ports.cmd = .ok (.seed r) ∨
              ∃ q, decode s.nreg s.ports.cmd = .ok (.neg r q)))))) ∧
  (∀ (i : Instr) (s : State), s.running → i.wellFormed s.nreg = true →
    (∃ r ∈ i.reads, s.valid r = false) →
    ∃ t, exec i s = .next t ∧ FaultedWith .uninit s t) ∧
  ∀ (k : Nat) (s t : State), SameButUnwritten s t →
    trace k s = trace k t ∧ (trace k s).length = k ∧
    ∃ s' t', Sys2Proof.core.run k s = .next s' ∧ Sys2Proof.core.run k t = .next t' ∧ SameButUnwritten s' t'

/-- R57: over any run, every written register holds the exact integer of its seeds, sums and negations reduced modulo
`2^96`, and is that integer whenever it lies in `[-2^95, 2^95-1]`. -/
def Obligations.RegistersTrackTheExactIntegers : Prop :=
  ∀ (k : Nat) (s : State) (m : Exact), Tracks s m →
    ∃ t, Sys2Proof.core.run k s = .next t ∧ Tracks t (exactAfterEdges k m s) ∧
      ∀ i, t.valid i = true → valMin ≤ exactAfterEdges k m s i → exactAfterEdges k m s i ≤ valMax →
        val (t.acc i) = exactAfterEdges k m s i

/-! ### Ports, ordering, reset (20_memory.md, 70_reset_and_hazards.md) -/

/-- R14: a command is accepted exactly where `rst_n`, `cmd_valid` and `cmd_ready` are 1; it then executes completely at
that edge; at an edge with reset released that accepts none, the state does not change. -/
def Obligations.AcceptedCommandsExecuteAndOthersChangeNothing : Prop :=
  ∀ s : State,
    (s.accepts = true ↔ s.ports.rstN = true ∧ s.ports.cmdValid = true ∧ s.cmdReady = true) ∧
    (s.accepts = true → ∃ t u, acceptCommand s = .next t ∧ step s = .next u ∧ SameBlock t u) ∧
    (s.ports.rstN = true → s.accepts = false → ∃ t, step s = .next t ∧ SameBlock s t)

/-- R15 and R16: `cmd_ready` is 0 in the cycle after an edge with `rst_n = 0` and 1 in every other; `rsp_valid` is 1
exactly in the cycle after an edge that accepted a command; the outputs show the response, and keep it over an edge
that accepts nothing; a faulted block is no exception to any of it. -/
def Obligations.ReadyAndResponseFollowTheEdge : Prop :=
  ∀ s t : State, step s = .next t →
    (outputs t).cmdReady = s.ports.rstN ∧
    (outputs t).rspValid = (s.ports.rstN && s.ports.cmdValid && (outputs s).cmdReady) ∧
    (outputs t).fault = (response t).fault ∧ (outputs t).cause = (response t).cause ∧
    (outputs t).fcmd = (response t).fcmd ∧ (outputs t).pred = (response t).pf ∧
    (outputs t).dout = (response t).xr ∧
    (response t).fault = t.status.getLsbD 0 ∧ (response t).cause = t.status.extractLsb' 1 4 ∧
    (s.ports.rstN = true → s.accepts = false → response t = response s)

/-- R17: `din` has no effect unless a SEED runs. -/
def Obligations.DinMattersToSeedOnly : Prop :=
  ∀ (s : State) (d : Word64),
    (∀ rd, ¬ (s.runsCommand = true ∧ decode s.nreg s.ports.cmd = .ok (.seed rd))) →
    step { s with ports := { s.ports with din := d } } = step s

/-- 20_memory.md section 3: what an edge does to the block is a function of the block and the inputs at that edge alone: not of
what the host drives later, nor of whether the last edge accepted a command. -/
def Obligations.EdgeDependsOnStateAndPresentInputsOnly : Prop :=
  ∀ s t : State, SameBlock s t → s.inReset = t.inReset → s.ports = t.ports →
    ∃ s' t', step s = .next s' ∧ step t = .next t' ∧ SameBlock s' t' ∧
      s'.inReset = t'.inReset ∧ s'.rspValid = t'.rspValid

/-- R52 and R53, from any state: an edge with `rst_n = 0` gives every element the reset value the spec states, accepts
nothing whatever is offered, and the block is in reset in the cycle after it; a second such edge changes no
element. -/
def Obligations.ResetEdgeGivesTheResetValues : Prop :=
  ∀ s : State, s.ports.rstN = false →
    ∃ t, step s = .next t ∧ t.nreg = s.nreg ∧ (∀ i, t.valid i = false) ∧
      t.pf = false ∧ t.xr = 0x0000000000000000#64 ∧ t.faulted = false ∧ t.cause = 0x0#4 ∧
      t.status.extractLsb' 5 3 = 0#3 ∧ t.fcmd = 0x0000#16 ∧
      outputs t = ⟨false, false, false, 0x0#4, 0x0000#16, false, 0x0000000000000000#64⟩ ∧
      (t.ports.rstN = false → ∃ u, step t = .next u ∧ SameBlock t u)

/-- R53: the reset state of a block with `n` registers, and that `State.reset` is it at `NREG = 4`. -/
def Obligations.ResetStateHasTheResetValues : Prop :=
  State.reset = State.resetWith 4 ∧
  ∀ n : Nat, let s := State.resetWith n
    s.nreg = n ∧ (∀ i, s.valid i = false) ∧ s.pf = false ∧ s.xr = 0#64 ∧
    s.faulted = false ∧ s.cause = 0#4 ∧ s.statusReserved = 0#3 ∧ s.fcmd = 0#16

/-- R54: from reset, the first edge with reset released makes the block ready and changes no element; a SEED offered
at the next edge makes its register readable. -/
def Obligations.BootThenSeedMakesARegisterReadable : Prop :=
  ∀ (s : State) (rd : RegIx) (u : Word64) (rest : List PortIn),
    s.inReset = true → s.running → rd.val < s.nreg → s.ports.rstN = true →
    s.future = PortIn.offer (wordOf 1 rd.val 0) u :: rest →
    ∃ t v, step s = .next t ∧ SameBlock s t ∧ t.cmdReady = true ∧
      step t = .next v ∧ v.readable rd ∧ v.acc rd = u.setWidth 96 ∧ v.running

/-- R18: commands offered at consecutive edges execute one at a time, in their order: after `k` edges the block is as the
first `k` commands leave it when each executes on the state the one before it left, whatever is offered after
them. -/
def Obligations.CommandsExecuteInAcceptanceOrder : Prop :=
  ∀ (s : State) (cs later : List (CmdWord × Word64)),
    ∃ t u, s.runCommands cs = .next t ∧
      Sys2Proof.core.run cs.length (s.withCommands (cs ++ later)) = .next u ∧ SameBlock t u

/-- R55: of two commands at consecutive edges the second runs on the state the first left, with no gap between
them, and is answered in the cycle after its edge. -/
def Obligations.ConsecutiveCommandsCompose : Prop :=
  ∀ (s : State) (i j : Instr) (u v : Word64), s.running →
    i.wellFormed s.nreg = true → j.wellFormed s.nreg = true →
    ∃ t w, exec i { s with ports := PortIn.offer (encode i) u } = .next t ∧
      Sys2Proof.core.run 2 (s.withCommands [(encode i, u), (encode j, v)]) = .next w ∧
      w.rspValid = true ∧ (t.faulted = true → SameBlock t w) ∧
      (t.running → ∃ x, exec j { t with ports := PortIn.offer (encode j) v } = .next x ∧ SameBlock x w)

/-- R42, R55: a SEED and an EXU of the same register at the very next edge give the seed back in XR, and ISU between
them gives PF 1. -/
def Obligations.SeededValueIsReadBack : Prop :=
  ∀ (s : State) (rd : RegIx) (u : Word64), s.running → rd.val < s.nreg →
    ∃ t, Sys2Proof.core.run 3 (s.withCommands
        [(wordOf 1 rd.val 0, u), (wordOf 4 0 rd.val, 0#64), (wordOf 5 0 rd.val, 0#64)]) = .next t ∧
      t.xr = u ∧ t.pf = true ∧ t.running ∧ t.rspValid = true

/-- R21: a predicate or an extractor repeated at once gives the same state again, a fault included. -/
def Obligations.ReadoutIsIdempotent : Prop :=
  ∀ (s t : State) (r : RegIx), ∀ i ∈ [Instr.isu r, .exu r, .isn r, .exn r],
    exec i s = .next t → exec i t = .next t
end

