-- ==== Sys2Proof/Laws/Assembler.lean ====
section
/-! SUPPORT. What the assembler's two operand checks answer. -/

namespace Sys2Proof.Machine

theorem asmReg_of_lt {n : Nat} (d : RegIx) (h : d.val < n) : asmReg n d.val = .ok d := by
  simp [asmReg, h, d.isLt]

theorem asmReg_of_ge {n k : Nat} (h : n ≤ k) : asmReg n k = .error .noSuchRegister := by
  unfold asmReg
  split
  · rw [if_neg (by omega)]
  · rfl

theorem asmSeed_of_word (u : Word64) : asmSeed (u.toNat : Int) = .ok u := by
  have := u.isLt
  unfold asmSeed
  rw [if_pos (by omega)]
  simp

theorem asmSeed_of_out_of_range {u : Int} (h : u < 0 ∨ 2 ^ 64 ≤ u) : asmSeed u = .error .seedOutOfRange := by
  unfold asmSeed
  rw [if_neg (by omega)]

end Sys2Proof.Machine
end

