-- ==== Sys2Proof/Laws/Datapath.lean ====
section
/-! SUPPORT. The datapath as numbers: limbs, the packed word, one limb of the adder, the ripple as a whole, and the
top bits the signed readings test. -/

namespace Sys2Proof.Machine

theorem limb0_toNat (x : Word96) : (limb0 x).toNat = x.toNat % 2 ^ 32 := by simp [limb0]

theorem limb1_toNat (x : Word96) : (limb1 x).toNat = x.toNat / 2 ^ 32 % 2 ^ 32 := by
  simp [limb1, Nat.shiftRight_eq_div_pow]

theorem limb2_toNat (x : Word96) : (limb2 x).toNat = x.toNat / 2 ^ 64 := by
  have := x.isLt
  simp only [limb2, BitVec.extractLsb'_toNat, Nat.shiftRight_eq_div_pow]
  omega

theorem low64_toNat (x : Word96) : (low64 x).toNat = x.toNat % 2 ^ 64 := by simp [low64]

theorem ofLimbs_toNat (a b c : Limb) :
    (ofLimbs a b c).toNat = a.toNat * 2 ^ 64 + b.toNat * 2 ^ 32 + c.toNat := by
  have hb := b.isLt
  have hc := c.isLt
  unfold ofLimbs
  rw [BitVec.toNat_append, BitVec.toNat_append, ← Nat.shiftLeft_add_eq_or_of_lt hb,
    ← Nat.shiftLeft_add_eq_or_of_lt hc]
  simp only [Nat.shiftLeft_eq]
  omega

/-- The 33-bit sum of a limb is exact (40_arith.md R30). -/
theorem limbSum_toNat (a b : Limb) (c : Bool) : (limbSum a b c).toNat = a.toNat + b.toNat + c.toNat := by
  have ha := a.isLt
  have hb := b.isLt
  have hc : c.toNat ≤ 1 := Bool.toNat_le c
  simp only [limbSum, BitVec.toNat_add, BitVec.toNat_setWidth, BitVec.toNat_ofBool]
  omega

theorem sumLimb_toNat (s : BitVec 33) : (sumLimb s).toNat = s.toNat % 2 ^ 32 := by simp [sumLimb]

/-- A bit as a number. -/
theorem toNat_getLsbD {w : Nat} (x : BitVec w) (k : Nat) : (x.getLsbD k).toNat = x.toNat / 2 ^ k % 2 := by
  simp only [BitVec.getLsbD, Nat.testBit_eq_decide_div_mod_eq]
  by_cases h : x.toNat / 2 ^ k % 2 = 1 <;> simp [h]
  omega

theorem carryOut_toNat (s : BitVec 33) : (carryOut s).toNat = s.toNat / 2 ^ 32 := by
  have := s.isLt
  rw [carryOut, toNat_getLsbD]
  omega

/-- The ripple from `L0` to `L2` is one addition modulo `2^96`, the carry in included. -/
theorem rippleAdd_toNat (x y : Word96) (c : Bool) :
    (rippleAdd x y c).toNat = (x.toNat + y.toNat + c.toNat) % 2 ^ 96 := by
  have hx := x.isLt
  have hy := y.isLt
  have hc : c.toNat ≤ 1 := Bool.toNat_le c
  simp only [rippleAdd, ofLimbs_toNat, sumLimb_toNat, limbSum_toNat, carryOut_toNat, limb0_toNat, limb1_toNat,
    limb2_toNat]
  obtain ⟨x0, hx0⟩ : ∃ a, a = x.toNat % 2 ^ 32 := ⟨_, rfl⟩
  obtain ⟨x1, hx1⟩ : ∃ a, a = x.toNat / 2 ^ 32 % 2 ^ 32 := ⟨_, rfl⟩
  obtain ⟨x2, hx2⟩ : ∃ a, a = x.toNat / 2 ^ 64 := ⟨_, rfl⟩
  obtain ⟨y0, hy0⟩ : ∃ a, a = y.toNat % 2 ^ 32 := ⟨_, rfl⟩
  obtain ⟨y1, hy1⟩ : ∃ a, a = y.toNat / 2 ^ 32 % 2 ^ 32 := ⟨_, rfl⟩
  obtain ⟨y2, hy2⟩ : ∃ a, a = y.toNat / 2 ^ 64 := ⟨_, rfl⟩
  have hX : x.toNat = x0 + 2 ^ 32 * x1 + 2 ^ 64 * x2 := by omega
  have hY : y.toNat = y0 + 2 ^ 32 * y1 + 2 ^ 64 * y2 := by omega
  rw [← hx0, ← hx1, ← hx2, ← hy0, ← hy1, ← hy2, hX, hY]
  omega

/-- The signed reading, its sign bit as a quotient. -/
theorem val_eq_div (x : Word96) : val x = (x.toNat : Int) - 2 ^ 96 * ((x.toNat / 2 ^ 95 : Nat) : Int) := by
  have := x.isLt
  rw [val, toNat_getLsbD, Nat.mod_eq_of_lt (by omega)]

theorem sgn64_eq_div (v : Word64) : sgn64 v = (v.toNat : Int) - 2 ^ 64 * ((v.toNat / 2 ^ 63 : Nat) : Int) := by
  have := v.isLt
  rw [sgn64, toNat_getLsbD, Nat.mod_eq_of_lt (by omega)]

theorem limb2_eq_iff (x : Word96) (n : Limb) : limb2 x = n ↔ x.toNat / 2 ^ 64 = n.toNat := by
  rw [← limb2_toNat, BitVec.toNat_inj]

end Sys2Proof.Machine
end

