-- ==== Sys2Proof/Laws/Encoding.lean ====
section
/-! SUPPORT. The fields of a packed word, the two ways to read a field, and what each check of the decoder says. -/

namespace Sys2Proof

theorem opField_packWord (rs rd : RegIx) (op : Opcode) : opField (packWord rs rd op) = op.bits := by
  revert rs rd op; intro rs rd op; cases op <;> revert rs rd <;> decide

theorem rdField_packWord (rs rd : RegIx) (op : Opcode) : rdField (packWord rs rd op) = rd := by
  revert rs rd op; intro rs rd op; cases op <;> revert rs rd <;> decide

theorem rsField_packWord (rs rd : RegIx) (op : Opcode) : rsField (packWord rs rd op) = rs := by
  revert rs rd op; intro rs rd op; cases op <;> revert rs rd <;> decide

theorem zField_packWord (rs rd : RegIx) (op : Opcode) : zField (packWord rs rd op) = 0#4 := by
  revert rs rd op; intro rs rd op; cases op <;> revert rs rd <;> decide

/-- A word with `z = 0` is packed from its own fields. -/
theorem packWord_fields (w : CmdWord) (op : Opcode) (hz : zField w = 0#4) (ho : opField w = op.bits) :
    packWord (rsField w) (rdField w) op = w := by
  apply BitVec.eq_of_toNat_eq
  have hz' := congrArg BitVec.toNat hz
  have ho' := congrArg BitVec.toNat ho
  have hw := w.isLt
  simp only [zField, opField, BitVec.extractLsb'_toNat, BitVec.toNat_ofNat, Nat.shiftRight_eq_div_pow] at hz' ho'
  simp only [packWord, rsField, rdField, BitVec.toNat_append, BitVec.ofFin_toFin, BitVec.extractLsb'_toNat,
    Nat.shiftRight_eq_div_pow, ← ho', BitVec.toNat_ofNat,
    ← Nat.shiftLeft_add_eq_or_of_lt (show w.toNat / 2 ^ 0 % 2 ^ 4 < 2 ^ 4 by omega),
    ← Nat.shiftLeft_add_eq_or_of_lt (show w.toNat / 2 ^ 4 % 2 ^ 4 < 2 ^ 4 by omega),
    ← Nat.shiftLeft_add_eq_or_of_lt (show w.toNat / 2 ^ 8 % 2 ^ 4 < 2 ^ 4 by omega)]
  simp only [Nat.shiftLeft_eq]
  omega

/-- The opcode an `op` field names is the one with those bits. -/
theorem opcodeOf_eq_some_iff (b : BitVec 4) (o : Opcode) : opcodeOf b = some o ↔ b = o.bits := by
  revert b; cases o <;> decide

theorem opcodeOf_eq_none_iff (b : BitVec 4) : opcodeOf b = none ↔ b.toNat = 0 ∨ 8 ≤ b.toNat := by
  revert b; decide

theorem withRegisters_eq_ok_iff (nreg : Nat) (i j : Instr) :
    withRegisters nreg i = .ok j ↔ i.wellFormed nreg = true ∧ i = j := by
  unfold withRegisters
  split <;> simp_all

theorem withUnusedZero_eq_ok_iff (nreg : Nat) (u : RegIx) (i j : Instr) :
    withUnusedZero nreg u i = .ok j ↔ u = 0 ∧ i.wellFormed nreg = true ∧ i = j := by
  unfold withUnusedZero
  split <;> simp_all [withRegisters_eq_ok_iff]

/-- A decoded command's registers exist: the last check of `decode` (30_encoding.md R25). -/
theorem wellFormed_of_decode {nreg : Nat} {w : CmdWord} {i : Instr} (h : decode nreg w = .ok i) :
    i.wellFormed nreg = true := by
  unfold decode at h
  split at h
  · cases h
  · split at h
    all_goals first
      | cases h
      | exact ((withUnusedZero_eq_ok_iff _ _ _ _).1 h).2.2 ▸ ((withUnusedZero_eq_ok_iff _ _ _ _).1 h).2.1
      | exact ((withRegisters_eq_ok_iff _ _ _).1 h).2 ▸ ((withRegisters_eq_ok_iff _ _ _).1 h).1

namespace Machine

theorem opField_toNat (w : CmdWord) : (opField w).toNat = opNum w := by
  simp [opField, opNum, BitVec.extractLsb'_toNat]

theorem rdField_val (w : CmdWord) : (rdField w).val = rdNum w := by
  simp [rdField, rdNum, Nat.shiftRight_eq_div_pow]

theorem rsField_val (w : CmdWord) : (rsField w).val = rsNum w := by
  simp [rsField, rsNum, Nat.shiftRight_eq_div_pow]

theorem zField_toNat (w : CmdWord) : (zField w).toNat = zNum w := by
  have := w.isLt
  simp only [zField, zNum, BitVec.extractLsb'_toNat, Nat.shiftRight_eq_div_pow]
  omega

theorem zField_eq_zero_iff (w : CmdWord) : zField w = 0#4 ↔ zNum w = 0 := by
  rw [← zField_toNat]
  exact ⟨fun h => by simp [h], fun h => BitVec.eq_of_toNat_eq (by simp [h])⟩

end Machine

end Sys2Proof
end

