-- ==== Sys2Proof/Laws/State.lean ====
section
/-! SUPPORT. What each update of the state leaves in each field and in each accessor, so that no later proof
unfolds a record update. -/

namespace Sys2Proof.Machine

/-! ### `writeAcc` and `markValid` -/

section Registers
variable (s : State) (r q : RegIx) (v : Word96)

@[simp] theorem writeAcc_pf : (s.writeAcc r v).pf = s.pf := rfl
@[simp] theorem writeAcc_xr : (s.writeAcc r v).xr = s.xr := rfl
@[simp] theorem writeAcc_status : (s.writeAcc r v).status = s.status := rfl
@[simp] theorem writeAcc_fcmd : (s.writeAcc r v).fcmd = s.fcmd := rfl
@[simp] theorem writeAcc_inReset : (s.writeAcc r v).inReset = s.inReset := rfl
@[simp] theorem writeAcc_rspValid : (s.writeAcc r v).rspValid = s.rspValid := rfl
@[simp] theorem writeAcc_ports : (s.writeAcc r v).ports = s.ports := rfl
@[simp] theorem writeAcc_future : (s.writeAcc r v).future = s.future := rfl
@[simp] theorem writeAcc_nreg : (s.writeAcc r v).nreg = s.nreg := by simp [State.writeAcc, State.nreg]

@[simp] theorem markValid_pf : (s.markValid r).pf = s.pf := rfl
@[simp] theorem markValid_xr : (s.markValid r).xr = s.xr := rfl
@[simp] theorem markValid_status : (s.markValid r).status = s.status := rfl
@[simp] theorem markValid_fcmd : (s.markValid r).fcmd = s.fcmd := rfl
@[simp] theorem markValid_inReset : (s.markValid r).inReset = s.inReset := rfl
@[simp] theorem markValid_rspValid : (s.markValid r).rspValid = s.rspValid := rfl
@[simp] theorem markValid_ports : (s.markValid r).ports = s.ports := rfl
@[simp] theorem markValid_future : (s.markValid r).future = s.future := rfl
@[simp] theorem markValid_nreg : (s.markValid r).nreg = s.nreg := by simp [State.markValid, State.nreg]

/-- A register reads, after a write, what was written there, and otherwise what it held. -/
@[simp] theorem writeAcc_acc :
    (s.writeAcc r v).acc q = if r = q ∧ r.val < s.nreg then v else s.acc q := by
  simp only [State.acc, State.writeAcc, State.nreg, List.getElem?_modify]
  by_cases h : r = q
  · subst h
    by_cases hr : r.val < s.file.length <;> simp [hr]
  · have : r.val ≠ q.val := fun e => h (Fin.ext e)
    simp [h, this]

@[simp] theorem writeAcc_valid : (s.writeAcc r v).valid q = s.valid q := by
  simp only [State.valid, State.writeAcc, List.getElem?_modify]
  by_cases h : r.val = q.val
  · cases hq : s.file[q.val]? <;> simp [h]
  · simp [h]

@[simp] theorem markValid_acc : (s.markValid r).acc q = s.acc q := by
  simp only [State.acc, State.markValid, List.getElem?_modify]
  by_cases h : r.val = q.val
  · cases hq : s.file[q.val]? <;> simp [h]
  · simp [h]

@[simp] theorem markValid_valid :
    (s.markValid r).valid q = if r = q ∧ r.val < s.nreg then true else s.valid q := by
  simp only [State.valid, State.markValid, State.nreg, List.getElem?_modify]
  by_cases h : r = q
  · subst h
    by_cases hr : r.val < s.file.length <;> simp [hr]
  · have : r.val ≠ q.val := fun e => h (Fin.ext e)
    simp [h, this]

/-- Only an existing register is valid. -/
theorem lt_nreg_of_valid (h : s.valid r = true) : r.val < s.nreg := by
  by_contra hr
  simp [State.valid, List.getElem?_eq_none (Nat.le_of_not_lt hr)] at h

end Registers

/-! ### Accessors depend on their field only -/

theorem acc_congr {s t : State} (h : t.file = s.file) (r : RegIx) : t.acc r = s.acc r := by
  simp only [State.acc, h]

theorem valid_congr {s t : State} (h : t.file = s.file) (r : RegIx) : t.valid r = s.valid r := by
  simp only [State.valid, h]

theorem nreg_congr {s t : State} (h : t.file = s.file) : t.nreg = s.nreg := by
  simp only [State.nreg, h]

theorem faulted_congr {s t : State} (h : t.status = s.status) : t.faulted = s.faulted := by
  simp only [State.faulted, h]

theorem cause_congr {s t : State} (h : t.status = s.status) : t.cause = s.cause := by
  simp only [State.cause, h]

@[simp] theorem writeAcc_faulted (s : State) (r : RegIx) (v : Word96) :
    (s.writeAcc r v).faulted = s.faulted := rfl
@[simp] theorem markValid_faulted (s : State) (r : RegIx) : (s.markValid r).faulted = s.faulted := rfl

/-! ### `writePf`, `writeXr`, `takeFault` -/

section Results
variable (s : State) (b : Bool) (x : Word64) (c : Cause)

@[simp] theorem writePf_file : (s.writePf b).file = s.file := rfl
@[simp] theorem writePf_pf : (s.writePf b).pf = b := rfl
@[simp] theorem writePf_xr : (s.writePf b).xr = s.xr := rfl
@[simp] theorem writePf_status : (s.writePf b).status = s.status := rfl
@[simp] theorem writePf_fcmd : (s.writePf b).fcmd = s.fcmd := rfl
@[simp] theorem writePf_inReset : (s.writePf b).inReset = s.inReset := rfl
@[simp] theorem writePf_rspValid : (s.writePf b).rspValid = s.rspValid := rfl
@[simp] theorem writePf_ports : (s.writePf b).ports = s.ports := rfl
@[simp] theorem writePf_future : (s.writePf b).future = s.future := rfl

@[simp] theorem writeXr_file : (s.writeXr x).file = s.file := rfl
@[simp] theorem writeXr_pf : (s.writeXr x).pf = s.pf := rfl
@[simp] theorem writeXr_xr : (s.writeXr x).xr = x := rfl
@[simp] theorem writeXr_status : (s.writeXr x).status = s.status := rfl
@[simp] theorem writeXr_fcmd : (s.writeXr x).fcmd = s.fcmd := rfl
@[simp] theorem writeXr_inReset : (s.writeXr x).inReset = s.inReset := rfl
@[simp] theorem writeXr_rspValid : (s.writeXr x).rspValid = s.rspValid := rfl
@[simp] theorem writeXr_ports : (s.writeXr x).ports = s.ports := rfl
@[simp] theorem writeXr_future : (s.writeXr x).future = s.future := rfl

@[simp] theorem takeFault_file : (s.takeFault c).file = s.file := rfl
@[simp] theorem takeFault_pf : (s.takeFault c).pf = s.pf := rfl
@[simp] theorem takeFault_xr : (s.takeFault c).xr = s.xr := rfl
@[simp] theorem takeFault_status : (s.takeFault c).status = recordCause s.status c := rfl
@[simp] theorem takeFault_fcmd : (s.takeFault c).fcmd = s.ports.cmd := rfl
@[simp] theorem takeFault_inReset : (s.takeFault c).inReset = s.inReset := rfl
@[simp] theorem takeFault_rspValid : (s.takeFault c).rspValid = s.rspValid := rfl
@[simp] theorem takeFault_ports : (s.takeFault c).ports = s.ports := rfl
@[simp] theorem takeFault_future : (s.takeFault c).future = s.future := rfl

/-- A status word, bit by bit, after a cause is recorded: FAULT, CAUSE, the reserved bits as before. -/
theorem recordCause_getLsbD (st : BitVec 8) (k : Nat) :
    (recordCause st c).getLsbD k =
      if k = 0 then true else if k < 5 then c.code.getLsbD (k - 1) else st.getLsbD k := by
  by_cases hk : k < 8
  · interval_cases k <;> cases c <;> revert st <;> decide
  · have h1 : (recordCause st c).getLsbD k = false := BitVec.getLsbD_of_ge _ _ (by omega)
    have h2 : st.getLsbD k = false := BitVec.getLsbD_of_ge _ _ (by omega)
    rw [h1, h2, if_neg (by omega), if_neg (by omega)]

@[simp] theorem takeFault_faulted : (s.takeFault c).faulted = true := by
  simp [State.faulted, recordCause_getLsbD]

@[simp] theorem takeFault_cause : (s.takeFault c).cause = c.code := by
  apply BitVec.eq_of_getLsbD_eq
  intro k hk
  simp [State.cause, recordCause_getLsbD, hk, Nat.add_comm 1 k]

@[simp] theorem takeFault_statusReserved : (s.takeFault c).statusReserved = s.statusReserved := by
  apply BitVec.eq_of_getLsbD_eq
  intro k hk
  simp [State.statusReserved, recordCause_getLsbD, hk, show ¬ (5 + k < 5) by omega]

end Results

/-! ### The edges -/

section Edges
variable (s : State)

@[simp] theorem nextPorts_file : s.nextPorts.file = s.file := by unfold State.nextPorts; split <;> rfl
@[simp] theorem nextPorts_pf : s.nextPorts.pf = s.pf := by unfold State.nextPorts; split <;> rfl
@[simp] theorem nextPorts_xr : s.nextPorts.xr = s.xr := by unfold State.nextPorts; split <;> rfl
@[simp] theorem nextPorts_status : s.nextPorts.status = s.status := by unfold State.nextPorts; split <;> rfl
@[simp] theorem nextPorts_fcmd : s.nextPorts.fcmd = s.fcmd := by unfold State.nextPorts; split <;> rfl
@[simp] theorem nextPorts_inReset : s.nextPorts.inReset = s.inReset := by unfold State.nextPorts; split <;> rfl
@[simp] theorem nextPorts_rspValid : s.nextPorts.rspValid = s.rspValid := by
  unfold State.nextPorts; split <;> rfl
@[simp] theorem nextPorts_ports : s.nextPorts.ports = s.future.headD PortIn.idle := by
  unfold State.nextPorts; split <;> simp [*]
@[simp] theorem nextPorts_future : s.nextPorts.future = s.future.tail := by
  unfold State.nextPorts; split <;> simp [*]

@[simp] theorem answerEdge_file : (answerEdge s).file = s.file := by simp [answerEdge]
@[simp] theorem answerEdge_pf : (answerEdge s).pf = s.pf := by simp [answerEdge]
@[simp] theorem answerEdge_xr : (answerEdge s).xr = s.xr := by simp [answerEdge]
@[simp] theorem answerEdge_status : (answerEdge s).status = s.status := by simp [answerEdge]
@[simp] theorem answerEdge_fcmd : (answerEdge s).fcmd = s.fcmd := by simp [answerEdge]
@[simp] theorem answerEdge_inReset : (answerEdge s).inReset = false := by simp [answerEdge]
@[simp] theorem answerEdge_rspValid : (answerEdge s).rspValid = true := by simp [answerEdge]
@[simp] theorem answerEdge_ports : (answerEdge s).ports = s.future.headD PortIn.idle := by simp [answerEdge]
@[simp] theorem answerEdge_future : (answerEdge s).future = s.future.tail := by simp [answerEdge]

@[simp] theorem idleEdge_file : (idleEdge s).file = s.file := by simp [idleEdge]
@[simp] theorem idleEdge_pf : (idleEdge s).pf = s.pf := by simp [idleEdge]
@[simp] theorem idleEdge_xr : (idleEdge s).xr = s.xr := by simp [idleEdge]
@[simp] theorem idleEdge_status : (idleEdge s).status = s.status := by simp [idleEdge]
@[simp] theorem idleEdge_fcmd : (idleEdge s).fcmd = s.fcmd := by simp [idleEdge]
@[simp] theorem idleEdge_inReset : (idleEdge s).inReset = false := by simp [idleEdge]
@[simp] theorem idleEdge_rspValid : (idleEdge s).rspValid = false := by simp [idleEdge]
@[simp] theorem idleEdge_ports : (idleEdge s).ports = s.future.headD PortIn.idle := by simp [idleEdge]
@[simp] theorem idleEdge_future : (idleEdge s).future = s.future.tail := by simp [idleEdge]

@[simp] theorem resetEdge_file :
    (resetEdge s).file = List.replicate s.nreg ⟨Config.accAfterReset, false⟩ := by simp [resetEdge]
@[simp] theorem resetEdge_pf : (resetEdge s).pf = false := by simp [resetEdge]
@[simp] theorem resetEdge_xr : (resetEdge s).xr = 0#64 := by simp [resetEdge]
@[simp] theorem resetEdge_status : (resetEdge s).status = 0#8 := by simp [resetEdge]
@[simp] theorem resetEdge_fcmd : (resetEdge s).fcmd = 0#16 := by simp [resetEdge]
@[simp] theorem resetEdge_inReset : (resetEdge s).inReset = true := by simp [resetEdge]
@[simp] theorem resetEdge_rspValid : (resetEdge s).rspValid = false := by simp [resetEdge]
@[simp] theorem resetEdge_ports : (resetEdge s).ports = s.future.headD PortIn.idle := by simp [resetEdge]
@[simp] theorem resetEdge_future : (resetEdge s).future = s.future.tail := by simp [resetEdge]

@[simp] theorem resetEdge_nreg : (resetEdge s).nreg = s.nreg := by simp [State.nreg]

@[simp] theorem resetEdge_valid (r : RegIx) : (resetEdge s).valid r = false := by
  simp only [State.valid, resetEdge_file, List.getElem?_replicate]
  by_cases h : r.val < s.nreg <;> simp [h]

@[simp] theorem resetEdge_faulted : (resetEdge s).faulted = false := by simp [State.faulted]

end Edges

/-! ### The accessors through the updates that leave the register file, or STATUS, alone -/

section Accessors
variable (s : State) (r : RegIx) (b : Bool) (x : Word64) (c : Cause)

@[simp] theorem writePf_acc : (s.writePf b).acc r = s.acc r := rfl
@[simp] theorem writePf_valid : (s.writePf b).valid r = s.valid r := rfl
@[simp] theorem writePf_nreg : (s.writePf b).nreg = s.nreg := rfl
@[simp] theorem writeXr_acc : (s.writeXr x).acc r = s.acc r := rfl
@[simp] theorem writeXr_valid : (s.writeXr x).valid r = s.valid r := rfl
@[simp] theorem writeXr_nreg : (s.writeXr x).nreg = s.nreg := rfl
@[simp] theorem takeFault_acc : (s.takeFault c).acc r = s.acc r := rfl
@[simp] theorem takeFault_valid : (s.takeFault c).valid r = s.valid r := rfl
@[simp] theorem takeFault_nreg : (s.takeFault c).nreg = s.nreg := rfl
@[simp] theorem writePf_faulted : (s.writePf b).faulted = s.faulted := rfl
@[simp] theorem writeXr_faulted : (s.writeXr x).faulted = s.faulted := rfl
@[simp] theorem answerEdge_acc : (answerEdge s).acc r = s.acc r := acc_congr (answerEdge_file s) r
@[simp] theorem answerEdge_valid : (answerEdge s).valid r = s.valid r := valid_congr (answerEdge_file s) r
@[simp] theorem answerEdge_nreg : (answerEdge s).nreg = s.nreg := nreg_congr (answerEdge_file s)
@[simp] theorem answerEdge_faulted : (answerEdge s).faulted = s.faulted := faulted_congr (answerEdge_status s)
@[simp] theorem answerEdge_cause : (answerEdge s).cause = s.cause := cause_congr (answerEdge_status s)
@[simp] theorem idleEdge_acc : (idleEdge s).acc r = s.acc r := acc_congr (idleEdge_file s) r
@[simp] theorem idleEdge_valid : (idleEdge s).valid r = s.valid r := valid_congr (idleEdge_file s) r
@[simp] theorem idleEdge_nreg : (idleEdge s).nreg = s.nreg := nreg_congr (idleEdge_file s)
@[simp] theorem idleEdge_faulted : (idleEdge s).faulted = s.faulted := faulted_congr (idleEdge_status s)
@[simp] theorem idleEdge_cause : (idleEdge s).cause = s.cause := cause_congr (idleEdge_status s)

end Accessors

/-! ### The reset state -/

section Reset
variable (n : Nat) (r : RegIx)

@[simp] theorem resetWith_nreg : (State.resetWith n).nreg = n := by simp [State.resetWith, State.nreg]

@[simp] theorem resetWith_valid : (State.resetWith n).valid r = false := by
  simp only [State.valid, State.resetWith, List.getElem?_replicate]
  by_cases h : r.val < n <;> simp [h]

@[simp] theorem resetWith_faulted : (State.resetWith n).faulted = false := by
  simp [State.faulted, State.resetWith]

@[simp] theorem resetWith_cause : (State.resetWith n).cause = 0#4 := by simp [State.cause, State.resetWith]

@[simp] theorem resetWith_statusReserved : (State.resetWith n).statusReserved = 0#3 := by
  simp [State.statusReserved, State.resetWith]

end Reset

/-! ### Commands laid on the port -/

section Offers
variable (s : State) (cs : List (CmdWord × Word64)) (n w : Nat)

@[simp] theorem withCommands_file : (s.withCommands cs).file = s.file := rfl
@[simp] theorem withCommands_pf : (s.withCommands cs).pf = s.pf := rfl
@[simp] theorem withCommands_xr : (s.withCommands cs).xr = s.xr := rfl
@[simp] theorem withCommands_status : (s.withCommands cs).status = s.status := rfl
@[simp] theorem withCommands_fcmd : (s.withCommands cs).fcmd = s.fcmd := rfl
@[simp] theorem withCommands_inReset : (s.withCommands cs).inReset = false := rfl

@[simp] theorem withFetchWord_file : (s.withFetchWord n w).file = s.file := rfl
@[simp] theorem withFetchWord_pf : (s.withFetchWord n w).pf = s.pf := rfl
@[simp] theorem withFetchWord_xr : (s.withFetchWord n w).xr = s.xr := rfl
@[simp] theorem withFetchWord_status : (s.withFetchWord n w).status = s.status := rfl
@[simp] theorem withFetchWord_fcmd : (s.withFetchWord n w).fcmd = s.fcmd := rfl
@[simp] theorem withFetchWord_inReset : (s.withFetchWord n w).inReset = false := rfl
@[simp] theorem withFetchWord_future : (s.withFetchWord n w).future = s.future := rfl
@[simp] theorem withFetchWord_ports :
    (s.withFetchWord n w).ports = PortIn.offer (BitVec.ofNat 16 (w % 2 ^ n)) s.ports.din := rfl

end Offers

end Sys2Proof.Machine
end

