-- ==== Sys2Proof/Laws/Ops.lean ====
section
/-! SUPPORT. One lemma per shared operation: what it answers, in every case. -/

namespace Sys2Proof.Machine

theorem readAcc_of_valid {s : State} {r : RegIx} (h : s.valid r = true) : readAcc s r = .ok (s.acc r) := by
  simp [readAcc, h]

theorem readAcc_of_unwritten {s : State} {r : RegIx} (h : s.valid r = false) :
    readAcc s r = .error .uninit := by
  simp [readAcc, h]

theorem requireLegal_of_wellFormed {i : Instr} {s : State} (h : i.wellFormed s.nreg = true) :
    requireLegal i s = .ok () := by
  simp [requireLegal, h]

theorem requireLegal_of_not_wellFormed {i : Instr} {s : State} (h : i.wellFormed s.nreg = false) :
    requireLegal i s = .error .illegal := by
  simp [requireLegal, h]

/-- What a command writes when no check raises a cause: the last line of its rule's pseudocode. -/
def effect (i : Instr) (s : State) : State :=
  match i with
  | .seed rd => (s.writeAcc rd (seedOperand s)).markValid rd
  | .neg rd rs => (s.writeAcc rd (neg96 (s.acc rs))).markValid rd
  | .add rd rs => s.writeAcc rd (add96 (s.acc rd) (s.acc rs))
  | .isu rs => s.writePf (predU (s.acc rs))
  | .exu rs => s.writeXr (low64 (s.acc rs))
  | .isn rs => s.writePf (predN (s.acc rs))
  | .exn rs => s.writeXr (low64 (s.acc rs))

/-- The first cause a command raises on the registers of `s`, in the order ILLEGAL, UNINIT, RANGE. -/
def instrCause (s : State) (i : Instr) : Option Cause :=
  if i.wellFormed s.nreg = true then
    if i.reads.all s.valid then (if rangeViolated s i then some .range else none)
    else some .uninit
  else some .illegal

/-- ALL that `exec` can do: it faults with the first cause that applies, or it makes its rule's writes. Every
proof about a meaning cites this and does not unfold `exec`. -/
theorem exec_eq (i : Instr) (s : State) :
    exec i s =
      .next (match instrCause s i with
        | some c => s.takeFault c
        | none => effect i s) := by
  unfold instrCause
  by_cases hw : i.wellFormed s.nreg = true
  · cases i with
    | seed rd => simp [exec, execSeed, requireLegal, completeOrFault, hw, Instr.reads, rangeViolated, effect,
        bind, Except.bind, pure, Except.pure]
    | neg rd rs => by_cases h : s.valid rs = true <;>
        simp [exec, execNeg, requireLegal, readAcc, completeOrFault, hw, Instr.reads, rangeViolated, effect,
          bind, Except.bind, pure, Except.pure, h]
    | add rd rs => by_cases h : s.valid rs = true <;> by_cases h' : s.valid rd = true <;>
        simp [exec, execAdd, requireLegal, readAcc, completeOrFault, hw, Instr.reads, rangeViolated, effect,
          bind, Except.bind, pure, Except.pure, h, h']
    | isu rs => by_cases h : s.valid rs = true <;>
        simp [exec, execIsu, requireLegal, readAcc, completeOrFault, hw, Instr.reads, rangeViolated, effect,
          bind, Except.bind, pure, Except.pure, h]
    | exu rs => by_cases h : s.valid rs = true <;> by_cases h' : predU (s.acc rs) = true <;>
        simp [exec, execExu, requireLegal, readAcc, requireRange, completeOrFault, hw, Instr.reads, rangeViolated,
          effect, bind, Except.bind, pure, Except.pure, h, h']
    | isn rs => by_cases h : s.valid rs = true <;>
        simp [exec, execIsn, requireLegal, readAcc, completeOrFault, hw, Instr.reads, rangeViolated, effect,
          bind, Except.bind, pure, Except.pure, h]
    | exn rs => by_cases h : s.valid rs = true <;> by_cases h' : predN (s.acc rs) = true <;>
        simp [exec, execExn, requireLegal, readAcc, requireRange, completeOrFault, hw, Instr.reads, rangeViolated,
          effect, bind, Except.bind, pure, Except.pure, h, h']
  · cases i <;>
      simp [exec, execSeed, execNeg, execAdd, execIsu, execExu, execIsn, execExn, requireLegal, completeOrFault, hw,
        bind, Except.bind]

/-- The state an accepted command leaves before the edge's own bookkeeping. -/
def afterCommand (s : State) : State :=
  if s.faulted then s
  else match decode s.nreg s.ports.cmd with
    | .error _ => s.takeFault .illegal
    | .ok i => match instrCause s i with
      | some c => s.takeFault c
      | none => effect i s

/-- An accepted command always has a next state (60_exceptions.md R44). -/
theorem acceptCommand_eq (s : State) : acceptCommand s = .next (afterCommand s) := by
  unfold acceptCommand afterCommand
  by_cases h : s.faulted = true
  · simp [h]
  · simp only [h]
    cases decode s.nreg s.ports.cmd with
    | error e => simp
    | ok i => simp [exec_eq]

/-- The state after an edge. -/
def afterEdge (s : State) : State :=
  if s.ports.rstN then (if s.accepts then answerEdge (afterCommand s) else idleEdge s) else resetEdge s

/-- ALL that `step` can do: an edge with reset, an edge that accepts a command, an idle edge. -/
theorem step_eq (s : State) : step s = .next (afterEdge s) := by
  unfold step afterEdge
  split
  · split
    · simp [acceptCommand_eq, onNext]
    · rfl
  · rfl

/-! ### What a command leaves alone, whatever it does -/

section Effect
variable (i : Instr) (s : State)

@[simp] theorem effect_status : (effect i s).status = s.status := by cases i <;> simp [effect]
@[simp] theorem effect_fcmd : (effect i s).fcmd = s.fcmd := by cases i <;> simp [effect]
@[simp] theorem effect_inReset : (effect i s).inReset = s.inReset := by cases i <;> simp [effect]
@[simp] theorem effect_rspValid : (effect i s).rspValid = s.rspValid := by cases i <;> simp [effect]
@[simp] theorem effect_ports : (effect i s).ports = s.ports := by cases i <;> simp [effect]
@[simp] theorem effect_future : (effect i s).future = s.future := by cases i <;> simp [effect]
@[simp] theorem effect_nreg : (effect i s).nreg = s.nreg := by
  cases i <;> simp [effect]

/-- No command that completes writes STATUS. -/
@[simp] theorem effect_faulted : (effect i s).faulted = s.faulted := faulted_congr (effect_status i s)
@[simp] theorem effect_cause : (effect i s).cause = s.cause := cause_congr (effect_status i s)

end Effect

/-- An unread register's bits are not in the result: only registers named are. -/
theorem effect_acc_of_ne_dest {i : Instr} {r : RegIx} (s : State) (h : i.dest ≠ some r) :
    (effect i s).acc r = s.acc r := by
  cases i <;> simp_all [effect, Instr.dest]

theorem effect_valid_of_ne_dest {i : Instr} {r : RegIx} (s : State) (h : i.dest ≠ some r) :
    (effect i s).valid r = s.valid r := by
  cases i <;> simp_all [effect, Instr.dest]

/-! ### The port side of a command -/

section Command
variable (s : State)

@[simp] theorem afterCommand_inReset : (afterCommand s).inReset = s.inReset := by
  unfold afterCommand; repeat' split
  all_goals simp

@[simp] theorem afterCommand_ports : (afterCommand s).ports = s.ports := by
  unfold afterCommand; repeat' split
  all_goals simp

@[simp] theorem afterCommand_future : (afterCommand s).future = s.future := by
  unfold afterCommand; repeat' split
  all_goals simp

@[simp] theorem afterCommand_nreg : (afterCommand s).nreg = s.nreg := by
  unfold afterCommand; repeat' split
  all_goals simp

@[simp] theorem afterEdge_nreg : (afterEdge s).nreg = s.nreg := by
  unfold afterEdge; repeat' split
  all_goals simp

theorem afterEdge_ports : (afterEdge s).ports = s.future.headD PortIn.idle := by
  unfold afterEdge; repeat' split
  all_goals simp

theorem afterEdge_future : (afterEdge s).future = s.future.tail := by
  unfold afterEdge; repeat' split
  all_goals simp

end Command

/-! ### What one edge can do, case by case -/

/-- The cause a decoded word raises is its command's. -/
theorem causeOf_of_decode {s : State} {w : CmdWord} {i : Instr} (h : decode s.nreg w = .ok i) :
    causeOf s w = instrCause s i := by
  unfold causeOf instrCause
  rw [h, if_pos (wellFormed_of_decode h)]

/-- What a word raises depends on the register file only. -/
theorem causeOf_congr {s t : State} (w : CmdWord) (h : t.file = s.file) : causeOf t w = causeOf s w := by
  unfold causeOf
  rw [nreg_congr h]
  cases decode s.nreg w with
  | error e => rfl
  | ok i =>
    have hv : t.valid = s.valid := funext fun r => valid_congr h r
    have hr : rangeViolated t i = rangeViolated s i := by cases i <;> simp [rangeViolated, acc_congr h]
    simp [hv, hr]

/-- The register file alone decides which cause a command raises. -/
theorem instrCause_congr {s t : State} (i : Instr) (h : t.file = s.file) : instrCause t i = instrCause s i := by
  unfold instrCause
  have hv : t.valid = s.valid := funext fun r => valid_congr h r
  have hr : rangeViolated t i = rangeViolated s i := by cases i <;> simp [rangeViolated, acc_congr h]
  rw [nreg_congr h, hv, hr]

/-- A command that raises nothing names existing registers and reads written ones. -/
theorem instrCause_eq_none {s : State} {i : Instr} (h : instrCause s i = none) :
    i.wellFormed s.nreg = true ∧ (∀ r ∈ i.reads, s.valid r = true) ∧ rangeViolated s i = false := by
  unfold instrCause at h
  split at h
  · split at h
    · split at h
      · cases h
      · rename_i h1 h2 h3
        exact ⟨h1, by simpa using h2, by simpa using h3⟩
    · cases h
  · cases h

/-- The five things an edge can be: reset, idle, a silenced command, a command that faults, a command that runs. -/
inductive EdgeCase (s : State) : State → Prop where
  | reset (hr : s.ports.rstN = false) : EdgeCase s (resetEdge s)
  | idle (hr : s.ports.rstN = true) (ha : s.accepts = false) : EdgeCase s (idleEdge s)
  | silenced (hr : s.ports.rstN = true) (ha : s.accepts = true) (hf : s.faulted = true) :
      EdgeCase s (answerEdge s)
  | faults (hr : s.ports.rstN = true) (ha : s.accepts = true) (hf : s.faulted = false) (c : Cause)
      (hc : raisedCause s = some c) : EdgeCase s (answerEdge (s.takeFault c))
  | runs (hr : s.ports.rstN = true) (ha : s.accepts = true) (hf : s.faulted = false)
      (hc : raisedCause s = none) (i : Instr) (hd : decode s.nreg s.ports.cmd = .ok i)
      (hi : instrCause s i = none) : EdgeCase s (answerEdge (effect i s))

/-- Every next state of a step is one of the five. Proofs about steps cite this and do not unfold `step`. -/
theorem step_cases {s t : State} (h : step s = .next t) : EdgeCase s t := by
  rw [step_eq] at h
  cases h
  unfold afterEdge
  cases hr : s.ports.rstN
  · exact .reset hr
  cases ha : s.accepts
  · exact .idle hr ha
  cases hf : s.faulted
  · simp only [if_true]
    unfold afterCommand
    simp only [hf, Bool.false_eq_true, if_false]
    cases hd : decode s.nreg s.ports.cmd with
    | error e => exact .faults hr ha hf .illegal (by simp [raisedCause, causeOf, hd])
    | ok i =>
      have hrc : raisedCause s = instrCause s i := causeOf_of_decode hd
      cases hi : instrCause s i with
      | some c =>
        simp only [hi]
        exact .faults hr ha hf c (by rw [hrc, hi])
      | none =>
        simp only [hi]
        exact .runs hr ha hf (by rw [hrc, hi]) i hd hi
  · have : afterCommand s = s := by unfold afterCommand; rw [if_pos hf]
    simp only [if_true, this]
    exact .silenced hr ha hf

/-- A command that runs is one that `runsCommand` counts, and no other edge is. -/
theorem runsCommand_eq_true_iff (s : State) :
    s.runsCommand = true ↔ s.accepts = true ∧ s.faulted = false ∧ raisedCause s = none := by
  simp [State.runsCommand, and_assoc]

end Sys2Proof.Machine
end

