-- ==== Sys2Proof/Laws/PerInstr.lean ====
section
/-! SUPPORT. The family `RowMatch`: each instruction's word matches its own row of R24's table and no other. -/

namespace Sys2Proof.Laws.RowMatch

/-- A row matches the instruction's word exactly when it is the instruction's row (30_encoding.md R24). -/
def Statement (i : Instr) : Prop := ∀ r ∈ opRows, r.matchesWord (encode i) = decide (r.op = i.opcode)

theorem seed (rd : RegIx) : Statement (.seed rd) := by
  unfold Statement; revert rd; decide

theorem neg (rd rs : RegIx) : Statement (.neg rd rs) := by
  unfold Statement; revert rd rs; decide

theorem add (rd rs : RegIx) : Statement (.add rd rs) := by
  unfold Statement; revert rd rs; decide

theorem isu (rs : RegIx) : Statement (.isu rs) := by
  unfold Statement; revert rs; decide

theorem exu (rs : RegIx) : Statement (.exu rs) := by
  unfold Statement; revert rs; decide

theorem isn (rs : RegIx) : Statement (.isn rs) := by
  unfold Statement; revert rs; decide

theorem exn (rs : RegIx) : Statement (.exn rs) := by
  unfold Statement; revert rs; decide

end Sys2Proof.Laws.RowMatch
end

