-- ==== Sys2Proof/Tests/Slice0.lean ====
section
/-! SUPPORT. The model's own tests: expected values from 95_test_vectors.md and the rules' worked examples; and for each
statement with hypotheses a witness that meets them. -/

namespace Sys2Proof.Tests

open Sys2Proof Sys2Proof.Machine

/-! ### Helpers -/

/-- A written register. -/
def wr (v : Word96) : AccReg := ⟨v, true⟩

/-- An unwritten register. -/
def un : AccReg := ⟨0#96, false⟩

/-- A running block out of reset with these registers and this command on the port. -/
def blk (file : List AccReg) (cmd : CmdWord) (din : Word64) : State :=
  { State.resetWith 0 with file := file, inReset := false, ports := PortIn.offer cmd din }

/-- The next state, where there is one. -/
def nextOf (o : Host.Outcome State Fault Refusal) : Option State :=
  match o with
  | .next s => some s
  | .fault _ => none
  | .refused _ => none

/-- A field of the state after one step. -/
def seen {α : Type} (s : State) (f : State → α) : Option α := (nextOf (step s)).map f

/-! ### WellFormed refuses, one ill-formed term for each check (30_encoding.md R25) -/

theorem test_wf_seed_rd : Instr.wellFormed 4 (.seed 4) = false := by decide
theorem test_wf_neg_rd : Instr.wellFormed 4 (.neg 5 0) = false := by decide
theorem test_wf_neg_rs : Instr.wellFormed 4 (.neg 0 4) = false := by decide
theorem test_wf_add_rd : Instr.wellFormed 4 (.add 15 0) = false := by decide
theorem test_wf_add_rs : Instr.wellFormed 4 (.add 0 4) = false := by decide
theorem test_wf_isu_rs : Instr.wellFormed 4 (.isu 4) = false := by decide
theorem test_wf_exu_rs : Instr.wellFormed 4 (.exu 4) = false := by decide
theorem test_wf_isn_rs : Instr.wellFormed 4 (.isn 4) = false := by decide
theorem test_wf_exn_rs : Instr.wellFormed 4 (.exn 4) = false := by decide
theorem test_wf_accepts_last_register : Instr.wellFormed 4 (.add 3 3) = true := by decide

/-! ### Decoding, the words written out bit by bit from the patterns of 30_encoding.md R24 -/

/-- `00000000dddd0001`, d = 0011 (95 E2). -/
theorem test_decode_seed : decode 4 0b0000000000110001#16 = .ok (.seed 3) := by decide
/-- `0000ssssdddd0010`, s = 0011, d = 0001 (95 E5). -/
theorem test_decode_neg : decode 4 0b0000001100010010#16 = .ok (.neg 1 3) := by decide
/-- `0000ssssdddd0011`, s = 0001, d = 0000 (95 E6). -/
theorem test_decode_add : decode 4 0b0000000100000011#16 = .ok (.add 0 1) := by decide
/-- `0000ssss00000100`, s = 0011 (95 E8). -/
theorem test_decode_isu : decode 4 0b0000001100000100#16 = .ok (.isu 3) := by decide
/-- `0000ssss00000101`, s = 0010 (95 E10). -/
theorem test_decode_exu : decode 4 0b0000001000000101#16 = .ok (.exu 2) := by decide
/-- `0000ssss00000110`, s = 0001 (95 E11). -/
theorem test_decode_isn : decode 4 0b0000000100000110#16 = .ok (.isn 1) := by decide
/-- `0000ssss00000111`, s = 0000 (95 E12). -/
theorem test_decode_exn : decode 4 0b0000000000000111#16 = .ok (.exn 0) := by decide
theorem test_decode_reserved_opcode : decode 4 0x0008#16 = .error .reservedOpcode := by decide
theorem test_decode_reserved_field : decode 4 0x8001#16 = .error .reservedField := by decide
theorem test_decode_unused_field : decode 4 0x0014#16 = .error .unusedField := by decide
theorem test_decode_no_register : decode 4 0x0052#16 = .error .noSuchRegister := by decide
theorem test_decode_wide_file : decode 16 0x0052#16 = .ok (.neg 5 0) := by decide
theorem test_decode_table_word : decodeTableWord 16 0x0312 = some (.neg 1 3) := by decide
theorem test_encode_neg : encode (.neg 1 3) = 0x0312#16 := by decide

/-! ### One step of each command (95_test_vectors.md sections 2.2 to 2.5) -/

/-- S-4: all ones is `2^64-1`, not `-1`. -/
theorem test_seed_zero_extends :
    seen (blk [un, un] 0x0011#16 0xFFFFFFFFFFFFFFFF#64) (fun t => (t.acc 1, t.valid 1, t.valid 0)) =
      some (0x00000000FFFFFFFFFFFFFFFF#96, true, false) := by decide
/-- S-3 and P1: the seed into `a0`. -/
theorem test_seed_rd0 :
    seen (blk [un, un] 0x0001#16 0x7FFFFFFFFFFFFFFF#64) (fun t => t.acc 0) =
      some 0x000000007FFFFFFFFFFFFFFF#96 := by decide
/-- N4, in place: `NEG a1, a1`. -/
theorem test_neg_in_place :
    seen (blk [un, wr 0x000000007FFFFFFFFFFFFFFF#96] 0x0112#16 0#64) (fun t => t.acc 1) =
      some 0xFFFFFFFF8000000000000001#96 := by decide
/-- N9 and F7: the most negative value into an unwritten register; the source stays. -/
theorem test_neg_most_negative :
    seen (blk [un, wr 0x800000000000000000000000#96] 0x0102#16 0#64)
      (fun t => (t.acc 0, t.valid 0, t.acc 1, t.faulted)) =
      some (0x800000000000000000000000#96, true, 0x800000000000000000000000#96, false) := by decide
/-- A2: a carry across both limb boundaries. -/
theorem test_add_ripples :
    seen (blk [wr 0x00000000FFFFFFFFFFFFFFFF#96, wr 1#96] 0x0103#16 0#64) (fun t => t.acc 0) =
      some 0x000000010000000000000000#96 := by decide
/-- A12: `rd = rs` doubles. -/
theorem test_add_doubles :
    seen (blk [wr 5#96, un] 0x0003#16 0#64) (fun t => t.acc 0) = some 0xA#96 := by decide
/-- P-4: `2^64` is not representable. -/
theorem test_isu_false :
    seen { blk [wr 0x000000010000000000000000#96] 0x0004#16 0#64 with pf := true } (fun t => (t.pf, t.faulted)) =
      some (false, false) := by decide
/-- P-2. -/
theorem test_isu_true :
    seen (blk [wr 0x00000000FFFFFFFFFFFFFFFF#96] 0x0004#16 0#64) (fun t => t.pf) = some true := by decide
/-- P1, line 6. -/
theorem test_exu_reads :
    seen (blk [wr 0x00000000FFFFFFFFFFFFFFFE#96] 0x0005#16 0#64) (fun t => (t.xr, t.pf)) =
      some (0xFFFFFFFFFFFFFFFE#64, false) := by decide
/-- P3, line 6: RANGE, FCMD the EXU word, XR kept. -/
theorem test_exu_range :
    seen (blk [wr 0x000000010000000000000000#96] 0x0005#16 0#64) (fun t => (t.status, t.fcmd, t.xr)) =
      some (0x03#8, 0x0005#16, 0#64) := by decide
/-- P-6: `-2^63`. -/
theorem test_isn_true :
    seen (blk [wr 0xFFFFFFFF8000000000000000#96] 0x0006#16 0#64) (fun t => t.pf) = some true := by decide
/-- P-8: `-2^63-1`, top limb all ones with bit 63 clear. -/
theorem test_isn_needs_bit63 :
    seen { blk [wr 0xFFFFFFFF7FFFFFFFFFFFFFFF#96] 0x0006#16 0#64 with pf := true } (fun t => t.pf) =
      some false := by decide
/-- P2, line 6. -/
theorem test_exn_reads :
    seen (blk [wr 0xFFFFFFFF8000000000000001#96] 0x0007#16 0#64) (fun t => t.xr) =
      some 0x8000000000000001#64 := by decide
/-- P-1: zero is not negative. -/
theorem test_exn_range_on_zero :
    seen (blk [wr 0#96] 0x0007#16 0#64) (fun t => (t.cause, t.fcmd)) = some (0x1#4, 0x0007#16) := by decide

/-! ### Faults, reset, the port (95_test_vectors.md section 2.6) -/

/-- F1: UNINIT. -/
theorem test_fault_uninit :
    seen (blk [un, un, un, un] 0x0103#16 0#64) (fun t => (t.faulted, t.cause, t.fcmd)) =
      some (true, 0x3#4, 0x0103#16) := by decide
/-- F2: the all-zero word is ILLEGAL. -/
theorem test_fault_illegal :
    seen (blk [un, un, un, un] 0x0000#16 0#64) (fun t => (t.faulted, t.cause, t.fcmd)) =
      some (true, 0x2#4, 0x0000#16) := by decide
/-- F6: a command after a fault is silenced, accepted and answered. -/
theorem test_fault_silences :
    seen { blk [wr 5#96, un] 0x0011#16 7#64 with status := 0x03#8, fcmd := 0x0007#16 }
      (fun t => (t.valid 1, t.status, t.fcmd, t.rspValid, t.cmdReady)) =
      some (false, 0x03#8, 0x0007#16, true, true) := by decide
/-- R52: reset wins over a command offered at the same edge. -/
theorem test_reset_wins :
    seen { blk [wr 5#96, un] 0x0011#16 7#64 with status := 0x03#8, ports := ⟨false, true, 0x0011#16, 7#64⟩ }
      (fun t => (t.valid 0, t.valid 1, t.status, t.cmdReady, t.rspValid)) =
      some (false, false, 0#8, false, false) := by decide
/-- R15: a command offered in the cycle after reset is not accepted. -/
theorem test_not_ready_in_reset :
    seen { State.reset with ports := PortIn.offer 0x0001#16 5#64 } (fun t => (t.valid 0, t.cmdReady, t.rspValid)) =
      some (false, true, false) := by decide
/-- `withFetchWord` makes the next step run the word, first after reset. -/
theorem test_fetch_word :
    seen (State.reset.withFetchWord 16 0x0021) (fun t => (t.valid 2, t.rspValid)) = some (true, true) := by decide

/-! ### The assembler's text (30_encoding.md R28, R29) -/

theorem test_asm_seed :
    assembleLine 4 "  seed A1, 0x7FFF_FFFF_FFFF_FFFF ; a".toList = .ok [(0x0011#16, 0x7FFFFFFFFFFFFFFF#64)] := by
  decide
theorem test_asm_sub :
    assembleLine 4 "SUB a0, a1, a2".toList = .ok [(0x0122#16, 0#64), (0x0203#16, 0#64)] := by decide
theorem test_asm_negative_seed : assembleLine 4 "SEED a0, -1".toList = .error .seedOutOfRange := by decide
theorem test_asm_no_register : assembleLine 4 "ISU a4".toList = .error .noSuchRegister := by decide
theorem test_asm_comment_only : assembleText 4 [" ; nothing".toList, "EXN a0".toList] = .ok [(0x0007#16, 0#64)] := by
  decide

/-! ### Witnesses: states and operands that meet the hypotheses of the statements -/

/-- `a0 = 5`, `a1 = -1`, `a2 = 2^64`, `a3` unwritten, `ADD a0, a1` on the port. -/
def wit : State := blk [wr 5#96, wr 0xFFFFFFFFFFFFFFFFFFFFFFFF#96, wr 0x000000010000000000000000#96, un] 0x0103#16 9#64

/-- `wit` after a RANGE fault of `EXU a2`. -/
def witFaulted : State := { wit with status := 0x03#8, fcmd := 0x0205#16 }

/-- `wit` with another word on the port. -/
def witWord (w : CmdWord) : State := { wit with ports := PortIn.offer w 9#64 }

theorem witness_DecodeInvertsEncode :
    Instr.wellFormed 4 (.add 3 0) = true ∧ Instr.wellFormed 16 (.neg 15 15) = true := by decide
theorem witness_EncodeInvertsDecode : decode 4 0x0312#16 = .ok (.neg 1 3) := by decide
theorem witness_LegalWordMatchesExactlyOneRow :
    decode 4 0x0031#16 = .ok (.seed 3) ∧ decode 4 0x0304#16 = .ok (.isu 3) ∧
      (⟨.add, 0x0003#16, 0xF00F#16⟩ : OpRow).matchesWord 0x0103#16 = true := by decide
theorem witness_RegisterFieldsNameExistingRegisters :
    (∃ r ∈ opRows, r.matchesWord 0x0041#16 = true ∧ 4 ≤ rdNum 0x0041#16) ∧
      (∃ r ∈ opRows, r.matchesWord 0x0403#16 = true ∧ 4 ≤ rsNum 0x0403#16) ∧
      ∃ r ∈ opRows, r.matchesWord 0x0FF3#16 = true := by decide
theorem witness_DecodeFollowsThePseudocode :
    (witWord 0x0052#16).running ∧ (witWord 0x0052#16).accepts = true ∧
      IllegalWord (witWord 0x0052#16).nreg (witWord 0x0052#16).ports.cmd :=
  ⟨by unfold State.running; decide, by decide, .noSuchRegister, by decide⟩
theorem witness_AssemblerFormsGiveTheListedWords :
    (3 : RegIx).val < 4 ∧ ((-1 : Int) < 0 ∨ (2 : Int) ^ 64 ≤ -1) ∧ ((2 : Int) ^ 64 < 0 ∨ (2 : Int) ^ 64 ≤ 2 ^ 64) ∧ 4 ≤ 4 := by
  decide
theorem witness_PseudoInstructionsHaveTheListedEffects :
    wit.running ∧ wit.readable 0 ∧ wit.readable 1 ∧ (3 : RegIx).val < wit.nreg ∧ (3 : RegIx) ≠ 0 := by
  unfold State.running State.readable; decide
theorem witness_EveryWordDenotesOneInteger :
    (-2 ^ 95 : Int) ≤ -2 ^ 95 ∧ (-2 ^ 95 : Int) ≤ 2 ^ 95 - 1 ∧ (2 ^ 95 - 1 : Int) ≤ 2 ^ 95 - 1 := by decide
theorem witness_ArithmeticLaws :
    (valMin ≤ val 0#96 + val 1#96 ∧ val 0#96 + val 1#96 ≤ valMax) ∧
      val 0x800000000000000000000000#96 + val 0xFFFFFFFFFFFFFFFFFFFFFFFF#96 < valMin ∧
      valMax < val 0x7FFFFFFFFFFFFFFFFFFFFFFF#96 + val 1#96 := by decide
theorem witness_CapacityBoundsSuffice :
    (([0x00000000FFFFFFFFFFFFFFFF#96, 0xFFFFFFFF0000000000000001#96] : List Word96).length ≤ 2 ^ 31 ∧
      ∀ v ∈ ([0x00000000FFFFFFFFFFFFFFFF#96, 0xFFFFFFFF0000000000000001#96] : List Word96),
        -(2 ^ 64 - 1) ≤ val v ∧ val v ≤ 2 ^ 64 - 1) ∧
    (([0xFFFFFFFF8000000000000000#96, 0x000000007FFFFFFFFFFFFFFF#96] : List Word96).length ≤ 2 ^ 32 ∧
      ∀ v ∈ ([0xFFFFFFFF8000000000000000#96, 0x000000007FFFFFFFFFFFFFFF#96] : List Word96),
        -2 ^ 63 ≤ val v ∧ val v ≤ 2 ^ 63 - 1) :=
  ⟨⟨by norm_num, List.forall_mem_cons.2 ⟨by decide, List.forall_mem_singleton.2 (by decide)⟩⟩,
    by norm_num, List.forall_mem_cons.2 ⟨by decide, List.forall_mem_singleton.2 (by decide)⟩⟩
theorem witness_UnsignedPredicateIsTheRange :
    predU 0x00000000FFFFFFFFFFFFFFFF#96 = true ∧ predU 0x000000010000000000000000#96 = false := by decide
theorem witness_NegativePredicateIsTheRange :
    predN 0xFFFFFFFF8000000000000000#96 = true ∧ predN 0xFFFFFFFF7FFFFFFFFFFFFFFF#96 = false := by decide
theorem witness_FourBandsPartitionTheWords :
    wit.running ∧ wit.readable 0 ∧ wit.readable 1 ∧ wit.readable 2 ∧
      band (wit.acc 0) = .u ∧ band (wit.acc 1) = .n ∧ band (wit.acc 2) = .w := by
  unfold State.running State.readable; decide
theorem witness_SeedWritesZeroExtendedDin :
    wit.running ∧ (3 : RegIx).val < wit.nreg ∧ wit.nreg ≤ (4 : RegIx).val ∧ opNum 0x0041#16 = 1 ∧
      wit.valid 3 = false ∧ ∃ t, exec (.neg 3 0) wit = .next t ∧ t.valid 3 = true := by
  unfold State.running
  exact ⟨by decide, by decide, by decide, by decide, by decide, _, exec_eq _ _, by decide⟩
theorem witness_NegWritesTheNegation :
    wit.running ∧ (3 : RegIx).val < wit.nreg ∧ wit.readable 2 ∧ wit.nreg ≤ (4 : RegIx).val ∧ wit.valid 3 = false ∧
      opNum 0x0312#16 = 2 := by
  unfold State.running State.readable; decide
theorem witness_AddWritesTheSum :
    wit.running ∧ wit.readable 0 ∧ wit.readable 1 ∧ wit.nreg ≤ (4 : RegIx).val ∧ wit.valid 3 = false ∧
      opNum 0x0103#16 = 3 := by
  unfold State.running State.readable; decide
theorem witness_IsuWritesTheUnsignedPredicate :
    wit.running ∧ wit.readable 2 ∧ wit.nreg ≤ (4 : RegIx).val ∧ wit.valid 3 = false ∧ opNum 0x0304#16 = 4 := by
  unfold State.running State.readable; decide
theorem witness_ExuReadsTheLowBitsOrFaultsRange :
    wit.running ∧ wit.readable 0 ∧ predU (wit.acc 0) = true ∧ wit.readable 2 ∧ predU (wit.acc 2) = false ∧
      wit.nreg ≤ (4 : RegIx).val ∧ wit.valid 3 = false ∧ opNum 0x0205#16 = 5 := by
  unfold State.running State.readable; decide
theorem witness_IsnWritesTheNegativePredicate :
    wit.running ∧ wit.readable 1 ∧ wit.nreg ≤ (4 : RegIx).val ∧ wit.valid 3 = false ∧ opNum 0x0106#16 = 6 := by
  unfold State.running State.readable; decide
theorem witness_ExnReadsTheLowBitsOrFaultsRange :
    wit.running ∧ wit.readable 1 ∧ predN (wit.acc 1) = true ∧ wit.readable 0 ∧ predN (wit.acc 0) = false ∧
      wit.nreg ≤ (4 : RegIx).val ∧ wit.valid 3 = false ∧ opNum 0x0007#16 = 7 := by
  unfold State.running State.readable; decide
theorem witness_WraparoundAndFalsePredicatesAreNoFaults :
    wit.running ∧ (Instr.neg 3 2).wellFormed wit.nreg = true ∧ (∀ r ∈ (Instr.neg 3 2).reads, wit.valid r = true) ∧
      (Instr.neg 3 2).opcode ∈ [Opcode.seed, .neg, .add] ∧ (Instr.neg 3 2).dest = some 3 ∧
      (Instr.isn 2).wellFormed wit.nreg = true ∧ (∀ r ∈ (Instr.isn 2).reads, wit.valid r = true) ∧
      (Instr.isn 2).opcode ∈ [Opcode.isu, .isn] := by
  unfold State.running; decide
theorem witness_CommandsTouchOnlyTheRegistersTheyName :
    (2 : RegIx) ∉ (Instr.add 0 1).regs ∧ (Instr.neg 0 1).dest ≠ some 1 ∧
      ∃ t, exec (.neg 0 1) wit = .next t := ⟨by decide, by decide, _, exec_eq _ _⟩
theorem witness_StepRunsTheDecodedCommand :
    wit.accepts = true ∧ wit.running ∧ decode wit.nreg wit.ports.cmd = .ok (.add 0 1) := by
  unfold State.running; decide
theorem witness_FetchWordIsTheNextCommandRun : wit.running ∧ (Instr.exn 3).wellFormed wit.nreg = true := by
  unfold State.running; decide
theorem witness_FirstApplicableCauseIsRaised :
    (wit.accepts = true ∧ wit.running ∧ decode wit.nreg wit.ports.cmd = .ok (.add 0 1)) ∧
      (witFaulted.accepts = true ∧ witFaulted.faulted = true) ∧
      ((witWord 0x0403#16).accepts = true ∧ (witWord 0x0403#16).running ∧
        IllegalWord (witWord 0x0403#16).nreg (witWord 0x0403#16).ports.cmd) ∧
      (decode 4 (witWord 0x0303#16).ports.cmd = .ok (.add 0 3) ∧ (witWord 0x0303#16).valid 3 = false) ∧
      (decode 4 (witWord 0x0205#16).ports.cmd = .ok (.exu 2) ∧ rangeViolated (witWord 0x0205#16) (.exu 2) = true) := by
  unfold State.running
  exact ⟨by decide, by decide, ⟨by decide, by decide, .noSuchRegister, by decide⟩, by decide, by decide⟩
theorem witness_inv : wit.Inv where
  nregLegal := by decide
  reservedZero := by decide
  noFaultNoRecord := by decide
  faultExplained := fun h => absurd h (by decide)
  inResetCleared := by decide
theorem witness_inv_faulted : witFaulted.Inv where
  nregLegal := by decide
  reservedZero := by decide
  noFaultNoRecord := by decide
  faultExplained := fun _ => ⟨.range, by decide, by decide⟩
  inResetCleared := by decide
theorem witness_CauseCodesMeanTheirConditions : wit.Inv ∧ wit.running ∧ wit.accepts = true :=
  ⟨witness_inv, by unfold State.running; decide, by decide⟩
theorem witness_FaultEntryWritesOnlyStatusAndFcmd :
    (witWord 0x0303#16).running ∧ (witWord 0x0303#16).accepts = true ∧
      raisedCause (witWord 0x0303#16) = some .uninit := by
  unfold State.running; decide
theorem witness_FaultedBlockSilencesCommands : witFaulted.faulted = true ∧ witFaulted.accepts = true := by decide
theorem witness_OnlyResetLeavesTheFaultedState :
    witFaulted.faulted = true ∧ (∀ p ∈ (witFaulted.ports :: witFaulted.future).take 3, p.rstN = true) ∧
      ({ wit with ports := ⟨false, true, 0x0103#16, 0#64⟩ } : State).ports.rstN = false := by decide
theorem witness_PredicateFlagIsWrittenByIsuAndIsnOnly :
    (∃ t, step (witWord 0x0204#16) = .next t) ∧ (witWord 0x0204#16).runsCommand = true ∧
      decode (witWord 0x0204#16).nreg (witWord 0x0204#16).ports.cmd = .ok (.isu 2) := ⟨⟨_, step_eq _⟩, by decide, by decide⟩
theorem witness_ExtractResultIsWrittenByExuAndExnOnly :
    (∃ t, step (witWord 0x0107#16) = .next t) ∧ (witWord 0x0107#16).runsCommand = true ∧
      decode (witWord 0x0107#16).nreg (witWord 0x0107#16).ports.cmd = .ok (.exn 1) := ⟨⟨_, step_eq _⟩, by decide, by decide⟩
theorem witness_StatusAndFcmdRecordTheFirstFault :
    (∃ t, step (witWord 0x0000#16) = .next t ∧ t.faulted = true) ∧
      ((witWord 0x0000#16).accepts = true ∧ (witWord 0x0000#16).faulted = false ∧
        raisedCause (witWord 0x0000#16) = some .illegal) ∧
      (wit.ports.rstN = true ∧ wit.faulted = false ∧ raisedCause wit = none) ∧
      (State.reset.ports.rstN = true ∧ State.reset.faulted = false ∧ State.reset.accepts = false) ∧ witFaulted.Inv :=
  ⟨⟨_, step_eq _, by decide⟩, by decide, by decide, by decide, witness_inv_faulted⟩
theorem witness_ResetStateMeetsTheInvariant : Config.legalNreg 2 = true ∧ Config.legalNreg 16 = true := by decide
theorem witness_EveryStepKeepsTheInvariant :
    (wit.Inv ∧ ∃ t, step wit = .next t) ∧ (witFaulted.Inv ∧ ∃ t, step witFaulted = .next t) :=
  ⟨⟨witness_inv, _, step_eq _⟩, witness_inv_faulted, _, step_eq _⟩
/-- Two blocks that differ in the bits of the unwritten `a3` alone. -/
theorem witness_UnwrittenRegistersFaultAndAreNeverObserved :
    wit ≠ { wit with file := wit.file.set 3 ⟨7#96, false⟩ } ∧
      SameButUnwritten wit { wit with file := wit.file.set 3 ⟨7#96, false⟩ } ∧
      ((3 : RegIx).val < wit.nreg ∧ ∃ t, step wit = .next t) ∧
      (wit.running ∧ (Instr.neg 0 3).wellFormed wit.nreg = true ∧ ∃ r ∈ (Instr.neg 0 3).reads, wit.valid r = false) :=
  ⟨by decide, ⟨by decide, by decide, by decide, rfl, rfl, rfl, rfl, rfl, rfl, rfl, rfl⟩,
    ⟨by decide, _, step_eq _⟩, by unfold State.running; decide, by decide, by decide⟩
theorem witness_RegistersTrackTheExactIntegers :
    Tracks wit (fun i => if i = 0 then 5 else if i = 1 then -1 else 2 ^ 64) := by unfold Tracks; decide
theorem witness_AcceptedCommandsExecuteAndOthersChangeNothing :
    wit.accepts = true ∧ State.reset.ports.rstN = true ∧ State.reset.accepts = false := by decide
theorem witness_ReadyAndResponseFollowTheEdge :
    (∃ t, step wit = .next t) ∧ (∃ t, step State.reset = .next t) ∧ State.reset.ports.rstN = true ∧
      State.reset.accepts = false := ⟨⟨_, step_eq _⟩, ⟨_, step_eq _⟩, by decide, by decide⟩
theorem witness_DinMattersToSeedOnly :
    ∀ rd, ¬ (wit.runsCommand = true ∧ decode wit.nreg wit.ports.cmd = .ok (.seed rd)) := by decide
theorem witness_EdgeDependsOnStateAndPresentInputsOnly :
    SameBlock wit { wit with rspValid := true, future := [PortIn.idle] } ∧
      wit.inReset = ({ wit with rspValid := true, future := [PortIn.idle] } : State).inReset ∧
      wit.ports = ({ wit with rspValid := true, future := [PortIn.idle] } : State).ports :=
  ⟨⟨rfl, ⟨rfl, rfl⟩, rfl, rfl⟩, rfl, rfl⟩
theorem witness_ResetEdgeGivesTheResetValues :
    ({ witFaulted with ports := ⟨false, true, 0x0103#16, 0#64⟩ } : State).ports.rstN = false := rfl
theorem witness_BootThenSeedMakesARegisterReadable :
    ({ State.reset with future := [PortIn.offer (wordOf 1 3 0) 6#64] } : State).inReset = true ∧
      ({ State.reset with future := [PortIn.offer (wordOf 1 3 0) 6#64] } : State).running ∧
      (3 : RegIx).val < State.reset.nreg ∧ State.reset.ports.rstN = true := by
  unfold State.running; decide
theorem witness_ConsecutiveCommandsCompose :
    wit.running ∧ (Instr.neg 3 0).wellFormed wit.nreg = true ∧ (Instr.add 3 0).wellFormed wit.nreg = true := by
  unfold State.running; decide
theorem witness_SeededValueIsReadBack : wit.running ∧ (3 : RegIx).val < wit.nreg := by
  unfold State.running; decide
theorem witness_ReadoutIsIdempotent :
    Instr.exu 2 ∈ [Instr.isu 2, .exu 2, .isn 2, .exn 2] ∧ ∃ t, exec (.exu 2) wit = .next t := ⟨by decide, _, exec_eq _ _⟩

end Sys2Proof.Tests
end

