-- ==== Sys2Proof/Proofs/Scope.lean ====
section
/-! The signed reading of a word (00_scope.md R2): `val` is the library's two's-complement reading
`BitVec.toInt`, and the range and uniqueness of R2 are the library's facts about it. -/

namespace Sys2Proof.Machine

theorem val_eq_sub_ite (x : Word96) :
    val x = (x.toNat : Int) - 2 ^ 96 * (if x.getLsbD 95 then 1 else 0) := by
  unfold val
  cases x.getLsbD 95 <;> rfl

/-- The model's signed reading is the library's. -/
theorem val_eq_toInt (x : Word96) : val x = x.toInt := by
  have hx := x.isLt
  rw [val_eq_div, BitVec.toInt_eq_toNat_cond]
  split <;> omega

theorem le_val (x : Word96) : -2 ^ 95 ≤ val x := val_eq_toInt x ▸ x.le_toInt

theorem val_le (x : Word96) : val x ≤ 2 ^ 95 - 1 := Int.le_sub_one_of_lt (val_eq_toInt x ▸ x.toInt_lt)

theorem val_injective : Function.Injective val := fun x y h =>
  BitVec.eq_of_toInt_eq (by rwa [← val_eq_toInt, ← val_eq_toInt])

/-- The word of an integer of the range, its residue modulo `2^96`, reads back as that integer. -/
theorem val_ofInt {n : Int} (hlo : -2 ^ 95 ≤ n) (hhi : n ≤ 2 ^ 95 - 1) : val (BitVec.ofInt 96 n) = n := by
  rw [val_eq_toInt]
  exact BitVec.toInt_ofInt_eq_self (by decide) hlo (Int.lt_of_le_sub_one hhi)

/-- Settles O9: the word of an integer is its residue modulo `2^96`, and no other word has its value because
the signed reading is injective. -/
theorem everyWordDenotesOneInteger : Obligations.EveryWordDenotesOneInteger := by
  unfold Obligations.EveryWordDenotesOneInteger
  constructor
  · intro x
    exact ⟨val_eq_sub_ite x, le_val x, val_le x⟩
  · intro n hlo hhi
    have hword := val_ofInt hlo hhi
    exact ⟨BitVec.ofInt 96 n, hword, fun y hy => val_injective (hy.trans hword.symm)⟩

end Sys2Proof.Machine
end

/-! The state elements (10_state.md): what an edge may do to each of them, the invariant of every step, and
the two-run relation by which the bits of an unwritten register are never observed. -/

namespace Sys2Proof.Machine

/-! ### Limbs -/

/-- Settles O10: the three limbs are the base `2^32` digits of the word. -/
theorem wordIsItsThreeLimbs : Obligations.WordIsItsThreeLimbs := by
  unfold Obligations.WordIsItsThreeLimbs
  intro x
  have hsum : x.toNat = (limb0 x).toNat + 2 ^ 32 * (limb1 x).toNat + 2 ^ 64 * (limb2 x).toNat := by
    rw [limb0_toNat, limb1_toNat, limb2_toNat]
    omega
  refine ⟨hsum, BitVec.eq_of_toNat_eq ?_, ?_⟩
  · rw [ofLimbs_toNat]
    omega
  · rw [low64_toNat, limb0_toNat, limb1_toNat]
    omega

/-! ### STATUS through the updates -/

theorem statusReserved_congr {s t : State} (h : t.status = s.status) : t.statusReserved = s.statusReserved := by
  simp only [State.statusReserved, h]

@[simp] theorem resetEdge_cause (s : State) : (resetEdge s).cause = 0#4 := by simp [State.cause]

@[simp] theorem resetEdge_statusReserved (s : State) : (resetEdge s).statusReserved = 0#3 := by
  simp [State.statusReserved]

/-- Taking a fault makes exactly R45's writes. -/
theorem faultedWith_takeFault (c : Cause) (s : State) : FaultedWith c s (s.takeFault c) :=
  ⟨takeFault_faulted s c, takeFault_cause s c, takeFault_statusReserved s c, rfl, rfl, rfl, rfl⟩

/-- The end of the edge adds nothing to a fault. -/
theorem faultedWith_answerEdge {c : Cause} {s t : State} (h : FaultedWith c s t) :
    FaultedWith c s (answerEdge t) := by
  obtain ⟨hfault, hcause, hres, hfcmd, hfile, hpf, hxr⟩ := h
  exact ⟨by simpa, by simpa, (statusReserved_congr (answerEdge_status t)).trans hres, by simpa, by simpa [SameFile],
    by simpa, by simpa⟩

/-! ### The state after an edge, by what the edge is -/

section Edge
variable {s t : State} (h : step s = .next t)
include h

theorem eq_resetEdge_of_step (hr : s.ports.rstN = false) : t = resetEdge s := by
  cases step_cases h with
  | reset => rfl
  | idle hr' => simp [hr] at hr'
  | silenced hr' => simp [hr] at hr'
  | faults hr' => simp [hr] at hr'
  | runs hr' => simp [hr] at hr'

/-- Where a command runs, it is a decoded one that raises nothing, and the edge makes its rule's writes. -/
theorem exists_effect_of_step (hrun : s.runsCommand = true) :
    ∃ i, decode s.nreg s.ports.cmd = .ok i ∧ instrCause s i = none ∧ t = answerEdge (effect i s) := by
  obtain ⟨haccepts, hfaulted, hraised⟩ := (runsCommand_eq_true_iff s).mp hrun
  cases step_cases h with
  | reset hr => simp [State.accepts, hr] at haccepts
  | idle _ ha => simp [haccepts] at ha
  | silenced _ _ hf => simp [hfaulted] at hf
  | faults _ _ _ c hc => simp [hraised] at hc
  | runs _ _ _ _ i hd hi => exact ⟨i, hd, hi, rfl⟩

theorem eq_effect_of_step {i : Instr} (hrun : s.runsCommand = true) (hd : decode s.nreg s.ports.cmd = .ok i) :
    t = answerEdge (effect i s) := by
  obtain ⟨j, hj, -, ht⟩ := exists_effect_of_step h hrun
  cases hd.symm.trans hj
  exact ht

/-- Without reset, only a command that runs touches the register file, PF or XR. -/
theorem sameFile_sameResults_of_step (hr : s.ports.rstN = true) (hrun : s.runsCommand = false) :
    SameFile s t ∧ SameResults s t := by
  cases step_cases h with
  | reset hr' => simp [hr] at hr'
  | idle => simp [SameFile, SameResults]
  | silenced => simp [SameFile, SameResults]
  | faults => simp [SameFile, SameResults]
  | runs _ ha hf hc => simp [(runsCommand_eq_true_iff s).mpr ⟨ha, hf, hc⟩] at hrun

/-- An accepted command of an unfaulted block that raises a cause takes the fault at the edge. -/
theorem faultedWith_of_step {c : Cause} (ha : s.accepts = true) (hf : s.faulted = false)
    (hc : raisedCause s = some c) : FaultedWith c s t := by
  cases step_cases h with
  | reset hr => simp [State.accepts, hr] at ha
  | idle _ ha' => simp [ha] at ha'
  | silenced _ _ hf' => simp [hf] at hf'
  | faults _ _ _ c' hc' =>
    cases hc.symm.trans hc'
    exact faultedWith_answerEdge (faultedWith_takeFault c s)
  | runs _ _ _ hc' => simp [hc] at hc'

/-- Without reset, only a fault that is taken writes STATUS or FCMD. -/
theorem sameFault_of_step (hr : s.ports.rstN = true)
    (hno : s.faulted = true ∨ s.accepts = false ∨ raisedCause s = none) : SameFault s t := by
  cases step_cases h with
  | reset hr' => simp [hr] at hr'
  | idle => simp [SameFault]
  | silenced => simp [SameFault]
  | faults _ ha hf c hc => simp [ha, hf, hc] at hno
  | runs => simp [SameFault]

end Edge

/-! ### PF and XR -/

/-- Only ISU and ISN write PF (10_state.md R7). -/
theorem effect_pf_of_ne {i : Instr} (s : State) (hu : ∀ r, i ≠ .isu r) (hn : ∀ r, i ≠ .isn r) :
    (effect i s).pf = s.pf := by
  cases i with
  | isu r => exact absurd rfl (hu r)
  | isn r => exact absurd rfl (hn r)
  | _ => rfl

/-- Only EXU and EXN write XR (10_state.md R8). -/
theorem effect_xr_of_ne {i : Instr} (s : State) (hu : ∀ r, i ≠ .exu r) (hn : ∀ r, i ≠ .exn r) :
    (effect i s).xr = s.xr := by
  cases i with
  | exu r => exact absurd rfl (hu r)
  | exn r => exact absurd rfl (hn r)
  | _ => rfl

/-- A command's writes do not depend on PF. -/
theorem effect_writePf (i : Instr) (s : State) (b : Bool) :
    (effect i (s.writePf b)).writePf (effect i s).pf = effect i s := by
  cases i <;> rfl

/-- No command reads PF: with another PF before it, it leaves the same state but for PF. -/
theorem exec_writePf (i : Instr) (s : State) (b : Bool) :
    ∃ t u, exec i s = .next t ∧ exec i (s.writePf b) = .next u ∧ u.writePf t.pf = t := by
  refine ⟨_, _, exec_eq i s, exec_eq i (s.writePf b), ?_⟩
  rw [instrCause_congr i (writePf_file s b)]
  cases instrCause s i with
  | some c => rfl
  | none => exact effect_writePf i s b

/-- Settles O35: by the kind of edge; where a command runs, PF is what its effect leaves there. -/
theorem predicateFlagIsWrittenByIsuAndIsnOnly : Obligations.PredicateFlagIsWrittenByIsuAndIsnOnly := by
  unfold Obligations.PredicateFlagIsWrittenByIsuAndIsnOnly
  refine ⟨fun s t h => ⟨fun hr => ?_, fun r hrun hd => ?_, fun r hrun hd => ?_, fun hr hother => ?_⟩, exec_writePf⟩
  · simp [eq_resetEdge_of_step h hr]
  · simp [eq_effect_of_step h hrun hd, effect]
  · simp [eq_effect_of_step h hrun hd, effect]
  · cases hrun : s.runsCommand with
    | false =>
      obtain ⟨-, hpf, -⟩ := sameFile_sameResults_of_step h hr hrun
      exact hpf
    | true =>
      obtain ⟨i, hd, -, rfl⟩ := exists_effect_of_step h hrun
      rw [answerEdge_pf]
      exact effect_pf_of_ne s (fun r hi => (hother r hrun).1 (hi ▸ hd)) fun r hi => (hother r hrun).2 (hi ▸ hd)

/-- Settles O36: by the kind of edge; a faulting extractor is a command that does not run. -/
theorem extractResultIsWrittenByExuAndExnOnly : Obligations.ExtractResultIsWrittenByExuAndExnOnly := by
  unfold Obligations.ExtractResultIsWrittenByExuAndExnOnly
  refine fun s t h => ⟨fun hr => ?_, fun r hrun hd => ?_, fun hr hother => ?_⟩
  · simp [eq_resetEdge_of_step h hr]
  · obtain hd | hd := hd
    · simp [eq_effect_of_step h hrun hd, effect, low64]
    · simp [eq_effect_of_step h hrun hd, effect, low64]
  · cases hrun : s.runsCommand with
    | false =>
      obtain ⟨-, -, hxr⟩ := sameFile_sameResults_of_step h hr hrun
      exact hxr
    | true =>
      obtain ⟨i, hd, -, rfl⟩ := exists_effect_of_step h hrun
      rw [answerEdge_xr]
      exact effect_xr_of_ne s (fun r hi => (hother r hrun).1 (hi ▸ hd)) fun r hi => (hother r hrun).2 (hi ▸ hd)

/-! ### The invariant -/

section Invariant
variable {s t : State} (hs : s.Inv)
include hs

/-- While there is no fault the invariant says nothing of the registers but how many there are. -/
theorem inv_of_unfaulted (hf : s.faulted = false) (hn : t.nreg = s.nreg) (hfault : SameFault s t)
    (hreset : t.inReset = false) : t.Inv := by
  obtain ⟨hstatus, hfcmd⟩ := hfault
  have htf : t.faulted = false := (faulted_congr hstatus).trans hf
  exact {
    nregLegal := hn ▸ hs.nregLegal
    reservedZero := (statusReserved_congr hstatus).trans hs.reservedZero
    noFaultNoRecord := fun _ => by
      rw [cause_congr hstatus, hfcmd]
      exact hs.noFaultNoRecord hf
    faultExplained := fun h => by simp [htf] at h
    inResetCleared := fun h => by simp [hreset] at h }

/-- A record stays explained while neither it nor the registers change (60_exceptions.md R46). -/
theorem inv_of_sameFile (hfile : SameFile s t) (hfault : SameFault s t) (hreset : t.inReset = false) : t.Inv := by
  cases hf : s.faulted with
  | false => exact inv_of_unfaulted hs hf (nreg_congr hfile) hfault hreset
  | true =>
    obtain ⟨hstatus, hfcmd⟩ := hfault
    have htf : t.faulted = true := (faulted_congr hstatus).trans hf
    obtain ⟨c, hcause, hcode⟩ := hs.faultExplained hf
    exact {
      nregLegal := nreg_congr hfile ▸ hs.nregLegal
      reservedZero := (statusReserved_congr hstatus).trans hs.reservedZero
      noFaultNoRecord := fun h => by simp [htf] at h
      faultExplained := fun _ =>
        ⟨c, by rw [hfcmd, causeOf_congr _ hfile, hcause], by rw [cause_congr hstatus, hcode]⟩
      inResetCleared := fun h => by simp [hreset] at h }

/-- A fault just taken is explained by its record: the word and the registers are those that raised it. -/
theorem inv_of_faultedWith {c : Cause} (hc : raisedCause s = some c) (hfault : FaultedWith c s t)
    (hreset : t.inReset = false) : t.Inv := by
  obtain ⟨htf, hcause, hres, hfcmd, hfile, -⟩ := hfault
  exact {
    nregLegal := nreg_congr hfile ▸ hs.nregLegal
    reservedZero := hres.trans hs.reservedZero
    noFaultNoRecord := fun h => by simp [htf] at h
    faultExplained := fun _ => ⟨c, by rw [hfcmd, causeOf_congr _ hfile]; exact hc, hcause⟩
    inResetCleared := fun h => by simp [hreset] at h }

theorem inv_resetEdge : (resetEdge s).Inv where
  nregLegal := (resetEdge_nreg s).symm ▸ hs.nregLegal
  reservedZero := resetEdge_statusReserved s
  noFaultNoRecord _ := ⟨resetEdge_cause s, resetEdge_fcmd s⟩
  faultExplained h := by simp at h
  inResetCleared _ := by simp

theorem inv_of_step (h : step s = .next t) : t.Inv := by
  cases step_cases h with
  | reset => exact inv_resetEdge hs
  | idle => exact inv_of_sameFile hs (idleEdge_file s) ⟨by simp, by simp⟩ (by simp)
  | silenced => exact inv_of_sameFile hs (answerEdge_file s) ⟨by simp, by simp⟩ (by simp)
  | faults _ _ _ c hc =>
    exact inv_of_faultedWith hs hc (faultedWith_answerEdge (faultedWith_takeFault c s)) (by simp)
  | runs _ _ hf => exact inv_of_unfaulted hs hf (by simp) ⟨by simp, by simp⟩ (by simp)

/-- CAUSE is one of the four codes, NONE exactly while FAULT is 0 (10_state.md R9). -/
theorem cause_of_inv : (s.cause = 0#4 ↔ s.faulted = false) ∧ s.cause.toNat < 4 := by
  cases hf : s.faulted with
  | false => simp [(hs.noFaultNoRecord hf).1]
  | true =>
    obtain ⟨c, -, hcode⟩ := hs.faultExplained hf
    cases c <;> simp [hcode, Cause.code]

end Invariant

/-- Settles O39, by the kind of edge. -/
theorem everyStepKeepsTheInvariant : Obligations.EveryStepKeepsTheInvariant := by
  unfold Obligations.EveryStepKeepsTheInvariant
  exact fun s t hs h => inv_of_step hs h

/-- Settles O37: the last clause holds of every state that meets the invariant, so after the edge by O39. -/
theorem statusAndFcmdRecordTheFirstFault : Obligations.StatusAndFcmdRecordTheFirstFault := by
  unfold Obligations.StatusAndFcmdRecordTheFirstFault
  refine fun s t h => ⟨fun hr => ?_, fun hr hf => sameFault_of_step h hr (.inl hf), fun c ha hf hc => ?_,
    fun hr _ hno => sameFault_of_step h hr (.inr hno), fun hs => ?_⟩
  · simp [eq_resetEdge_of_step h hr]
  · obtain ⟨hfault, hcause, hres, hfcmd, -⟩ := faultedWith_of_step h ha hf hc
    exact ⟨hfault, hcause, hres, hfcmd⟩
  · have ht := inv_of_step hs h
    obtain ⟨hzero, hlt⟩ := cause_of_inv ht
    exact ⟨hzero, hlt, ht.reservedZero, fun hf => (ht.noFaultNoRecord hf).2⟩

/-! ### VALID and UNINIT -/

/-- SEED and NEG set the VALID bit of their destination, and no command writes another (10_state.md R6). -/
theorem effect_valid_iff (i : Instr) (s : State) {r : RegIx} (hr : r.val < s.nreg) :
    (effect i s).valid r = true ↔ s.valid r = true ∨ i = .seed r ∨ ∃ q, i = .neg r q := by
  cases i with
  | seed rd => by_cases h : rd = r <;> simp [effect, h, hr]
  | neg rd rs => by_cases h : rd = r <;> simp [effect, h, hr]
  | _ => simp [effect]

theorem valid_iff_of_step {s t : State} {r : RegIx} (hr : r.val < s.nreg) (h : step s = .next t) :
    t.valid r = true ↔ s.ports.rstN = true ∧ (s.valid r = true ∨ (s.runsCommand = true ∧
      (decode s.nreg s.ports.cmd = .ok (.seed r) ∨ ∃ q, decode s.nreg s.ports.cmd = .ok (.neg r q)))) := by
  cases hrst : s.ports.rstN with
  | false => simp [eq_resetEdge_of_step h hrst]
  | true =>
    cases hrun : s.runsCommand with
    | false =>
      obtain ⟨hfile, -⟩ := sameFile_sameResults_of_step h hrst hrun
      simp [valid_congr hfile r]
    | true =>
      obtain ⟨i, hd, -, rfl⟩ := exists_effect_of_step h hrun
      simp [effect_valid_iff i s hr, hd]

/-- UNINIT comes before RANGE and after ILLEGAL (60_exceptions.md R44). -/
theorem instrCause_eq_uninit {i : Instr} {s : State} (hw : i.wellFormed s.nreg = true)
    (hread : ∃ r ∈ i.reads, s.valid r = false) : instrCause s i = some .uninit := by
  have hall : i.reads.all s.valid = false := by simpa using hread
  simp [instrCause, hw, hall]

theorem exec_of_unwritten {i : Instr} {s : State} (hw : i.wellFormed s.nreg = true)
    (hread : ∃ r ∈ i.reads, s.valid r = false) : exec i s = .next (s.takeFault .uninit) := by
  rw [exec_eq, instrCause_eq_uninit hw hread]

/-! ### Two runs that differ in unwritten registers only -/

section TwoRuns
variable {s t : State} (h : SameButUnwritten s t)
include h

theorem outputs_eq_of_sameButUnwritten : outputs s = outputs t := by
  simp [outputs, State.cmdReady, State.faulted, State.cause, h.pf, h.xr, h.status, h.fcmd, h.inReset, h.rspValid]

theorem rangeViolated_eq_of_sameButUnwritten {i : Instr} (hread : ∀ r ∈ i.reads, s.valid r = true) :
    rangeViolated s i = rangeViolated t i := by
  cases i with
  | exu rs => simp [rangeViolated, h.acc rs (hread rs (by simp [Instr.reads]))]
  | exn rs => simp [rangeViolated, h.acc rs (hread rs (by simp [Instr.reads]))]
  | _ => rfl

/-- The checks look at VALID before they look at a register's bits. -/
theorem instrCause_eq_of_sameButUnwritten (i : Instr) : instrCause s i = instrCause t i := by
  unfold instrCause
  rw [← h.nreg, ← funext h.valid]
  by_cases hread : i.reads.all s.valid = true
  · rw [rangeViolated_eq_of_sameButUnwritten h (by simpa using hread)]
  · simp [hread]

theorem sameButUnwritten_takeFault (c : Cause) : SameButUnwritten (s.takeFault c) (t.takeFault c) :=
  { h with
    status := by simp [h.status]
    fcmd := by simp [h.ports] }

theorem sameButUnwritten_writePf (b : Bool) : SameButUnwritten (s.writePf b) (t.writePf b) :=
  { h with pf := rfl }

theorem sameButUnwritten_writeXr (x : Word64) : SameButUnwritten (s.writeXr x) (t.writeXr x) :=
  { h with xr := rfl }

theorem sameButUnwritten_writeAcc (r : RegIx) (v : Word96) :
    SameButUnwritten (s.writeAcc r v) (t.writeAcc r v) :=
  { h with
    nreg := by simpa using h.nreg
    valid := by simpa using h.valid
    acc := fun q hq => by
      rw [writeAcc_valid] at hq
      simp [h.nreg, h.acc q hq] }

/-- A register written and marked holds the same bits in both states, written before or not. -/
theorem sameButUnwritten_writeAcc_markValid (r : RegIx) (v : Word96) :
    SameButUnwritten ((s.writeAcc r v).markValid r) ((t.writeAcc r v).markValid r) :=
  { h with
    nreg := by simpa using h.nreg
    valid := by simp [h.nreg, h.valid]
    acc := fun q hq => by
      by_cases hw : r = q ∧ r.val < s.nreg
      · obtain ⟨rfl, hr⟩ := hw
        simp [← h.nreg, hr]
      · have hq : s.valid q = true := by simpa [hw] using hq
        simp [← h.nreg, hw, h.acc q hq] }

/-- A command computes its result from registers that it reads, and it runs only where all of these are written. -/
theorem sameButUnwritten_effect {i : Instr} (hread : ∀ r ∈ i.reads, s.valid r = true) :
    SameButUnwritten (effect i s) (effect i t) := by
  have hacc : ∀ r ∈ i.reads, s.acc r = t.acc r := fun r hr => h.acc r (hread r hr)
  cases i with
  | seed rd =>
    simp only [effect, seedOperand, h.ports]
    exact sameButUnwritten_writeAcc_markValid h rd _
  | neg rd rs =>
    simp only [effect, hacc rs (by simp [Instr.reads])]
    exact sameButUnwritten_writeAcc_markValid h rd _
  | add rd rs =>
    simp only [effect, hacc rd (by simp [Instr.reads]), hacc rs (by simp [Instr.reads])]
    exact sameButUnwritten_writeAcc h rd _
  | isu rs | isn rs =>
    simp only [effect, hacc rs (by simp [Instr.reads])]
    exact sameButUnwritten_writePf h _
  | exu rs | exn rs =>
    simp only [effect, hacc rs (by simp [Instr.reads])]
    exact sameButUnwritten_writeXr h _

theorem sameButUnwritten_afterCommand : SameButUnwritten (afterCommand s) (afterCommand t) := by
  unfold afterCommand
  rw [← faulted_congr h.status, ← h.nreg, ← h.ports]
  cases s.faulted with
  | true => exact h
  | false =>
    cases decode s.nreg s.ports.cmd with
    | error e => exact sameButUnwritten_takeFault h .illegal
    | ok i =>
      simp only [← instrCause_eq_of_sameButUnwritten h i]
      cases hi : instrCause s i with
      | some c => exact sameButUnwritten_takeFault h c
      | none =>
        obtain ⟨-, hread, -⟩ := instrCause_eq_none hi
        exact sameButUnwritten_effect h hread

theorem sameButUnwritten_nextPorts : SameButUnwritten s.nextPorts t.nextPorts where
  nreg := by rw [nreg_congr (nextPorts_file s), nreg_congr (nextPorts_file t), h.nreg]
  valid i := by rw [valid_congr (nextPorts_file s), valid_congr (nextPorts_file t), h.valid]
  acc i hi := by
    rw [valid_congr (nextPorts_file s)] at hi
    rw [acc_congr (nextPorts_file s), acc_congr (nextPorts_file t), h.acc i hi]
  pf := by simp [h.pf]
  xr := by simp [h.xr]
  status := by simp [h.status]
  fcmd := by simp [h.fcmd]
  inReset := by simp [h.inReset]
  rspValid := by simp [h.rspValid]
  ports := by simp [h.future]
  future := by simp [h.future]

theorem sameButUnwritten_answerEdge : SameButUnwritten (answerEdge s) (answerEdge t) :=
  sameButUnwritten_nextPorts { h with inReset := rfl, rspValid := rfl }

theorem sameButUnwritten_idleEdge : SameButUnwritten (idleEdge s) (idleEdge t) :=
  sameButUnwritten_nextPorts { h with inReset := rfl, rspValid := rfl }

/-- A reset edge leaves no register written. -/
theorem sameButUnwritten_resetEdge : SameButUnwritten (resetEdge s) (resetEdge t) where
  nreg := by simp [h.nreg]
  valid := by simp
  acc i hi := by simp at hi
  pf := by simp
  xr := by simp
  status := by simp
  fcmd := by simp
  inReset := by simp
  rspValid := by simp
  ports := by simp [h.future]
  future := by simp [h.future]

theorem accepts_eq_of_sameButUnwritten : s.accepts = t.accepts := by
  simp [State.accepts, State.cmdReady, h.ports, h.inReset]

theorem sameButUnwritten_afterEdge : SameButUnwritten (afterEdge s) (afterEdge t) := by
  unfold afterEdge
  rw [← h.ports, ← accepts_eq_of_sameButUnwritten h]
  cases s.ports.rstN with
  | false => exact sameButUnwritten_resetEdge h
  | true =>
    cases s.accepts with
    | false => exact sameButUnwritten_idleEdge h
    | true => exact sameButUnwritten_answerEdge (sameButUnwritten_afterCommand h)

end TwoRuns

/-! ### Runs -/

theorem trace_succ (k : Nat) (s : State) : trace (k + 1) s = outputs (afterEdge s) :: trace k (afterEdge s) := by
  simp [trace, step_eq]

theorem core_run_succ (k : Nat) (s : State) : core.run (k + 1) s = core.run k (afterEdge s) := by
  have hstep : core.step s = .next (afterEdge s) := step_eq s
  simp [Host.Core.run, hstep]

theorem length_trace (k : Nat) (s : State) : (trace k s).length = k := by
  induction k generalizing s with
  | zero => rfl
  | succ k ih => simp [trace_succ, ih]

/-- Related states show the same outputs for ever. -/
theorem trace_eq_of_sameButUnwritten (k : Nat) {s t : State} (h : SameButUnwritten s t) : trace k s = trace k t := by
  induction k generalizing s t with
  | zero => rfl
  | succ k ih =>
    have hedge := sameButUnwritten_afterEdge h
    rw [trace_succ, trace_succ, outputs_eq_of_sameButUnwritten hedge, ih hedge]

/-- Related states stay related. -/
theorem run_sameButUnwritten (k : Nat) {s t : State} (h : SameButUnwritten s t) :
    ∃ s' t', core.run k s = .next s' ∧ core.run k t = .next t' ∧ SameButUnwritten s' t' := by
  induction k generalizing s t with
  | zero => exact ⟨s, t, rfl, rfl, h⟩
  | succ k ih =>
    rw [core_run_succ, core_run_succ]
    exact ih (sameButUnwritten_afterEdge h)

/-- Settles O40: VALID edge by edge, UNINIT by the order of the checks, and the two runs by induction on the number
of edges, the relation being kept by every edge. -/
theorem unwrittenRegistersFaultAndAreNeverObserved : Obligations.UnwrittenRegistersFaultAndAreNeverObserved := by
  unfold Obligations.UnwrittenRegistersFaultAndAreNeverObserved
  refine ⟨fun s t r hr h => valid_iff_of_step hr h, fun i s _ hw hread => ?_, fun k s t h => ?_⟩
  · exact ⟨_, exec_of_unwritten hw hread, faultedWith_takeFault .uninit s⟩
  · exact ⟨trace_eq_of_sameButUnwritten k h, length_trace k s, run_sameButUnwritten k h⟩

end Sys2Proof.Machine

/-! Memory access and ordering (20_memory.md): what the host's ports decide at an edge, the registers a
command may touch, and the one order in which commands execute. -/

namespace Sys2Proof.Machine

/-! ### The register file: a command touches the registers it names only (R20) -/

/-- Put the content `a`, written or not, into register `r`: the change of the file that R20's statement makes. -/
def State.setReg (s : State) (r : RegIx) (a : AccReg) : State := { s with file := s.file.set r.val a }

section SetReg
variable (s : State) {r q : RegIx} (a : AccReg)

@[simp] theorem setReg_nreg : (s.setReg r a).nreg = s.nreg := by simp [State.setReg, State.nreg]

theorem setReg_acc_of_ne (h : r ≠ q) : (s.setReg r a).acc q = s.acc q := by
  have hval : r.val ≠ q.val := fun e => h (Fin.ext e)
  simp only [State.acc, State.setReg, List.getElem?_set_ne hval]

theorem setReg_valid_of_ne (h : r ≠ q) : (s.setReg r a).valid q = s.valid q := by
  have hval : r.val ≠ q.val := fun e => h (Fin.ext e)
  simp only [State.valid, State.setReg, List.getElem?_set_ne hval]

/-- A change at one place of a list and a new element at another may be made in either order. -/
theorem modify_set_of_ne {α : Type} (l : List α) (f : α → α) (x : α) {m n : Nat} (h : m ≠ n) :
    (l.set m x).modify n f = (l.modify n f).set m x := by
  apply List.ext_getElem?
  intro k
  rw [List.getElem?_modify, List.getElem?_set, List.getElem?_set, List.getElem?_modify, List.length_modify]
  by_cases hk : m = k
  · simp [← hk, h.symm]
  · simp [hk]

theorem writeAcc_setReg_of_ne (v : Word96) (h : r ≠ q) :
    (s.setReg r a).writeAcc q v = (s.writeAcc q v).setReg r a := by
  have hval : r.val ≠ q.val := fun e => h (Fin.ext e)
  simp only [State.writeAcc, State.setReg, modify_set_of_ne _ _ _ hval]

theorem markValid_setReg_of_ne (h : r ≠ q) : (s.setReg r a).markValid q = (s.markValid q).setReg r a := by
  have hval : r.val ≠ q.val := fun e => h (Fin.ext e)
  simp only [State.markValid, State.setReg, modify_set_of_ne _ _ _ hval]

theorem reads_subset_regs (i : Instr) : i.reads ⊆ i.regs := by
  cases i <;> simp [Instr.reads, Instr.regs]

/-- The checks look at NREG and at the registers that the command reads. -/
theorem instrCause_eq_of_reads {i : Instr} {s t : State} (hn : t.nreg = s.nreg)
    (hread : ∀ q ∈ i.reads, t.acc q = s.acc q ∧ t.valid q = s.valid q) : instrCause t i = instrCause s i := by
  have hall : i.reads.all t.valid = i.reads.all s.valid := by
    rw [Bool.eq_iff_iff, List.all_eq_true, List.all_eq_true]
    exact forall₂_congr fun q hq => by rw [(hread q hq).2]
  have hrange : rangeViolated t i = rangeViolated s i := by
    cases i with
    | exu rs | exn rs => simp [rangeViolated, (hread rs (by simp [Instr.reads])).1]
    | _ => rfl
  unfold instrCause
  rw [hn, hall, hrange]

theorem instrCause_setReg {i : Instr} (h : r ∉ i.regs) : instrCause (s.setReg r a) i = instrCause s i := by
  refine instrCause_eq_of_reads (setReg_nreg s a) fun q hq => ?_
  have hne : r ≠ q := fun e => h (e ▸ reads_subset_regs i hq)
  exact ⟨setReg_acc_of_ne s a hne, setReg_valid_of_ne s a hne⟩

/-- A command's writes and a change of a register that it does not name may be made in either order. -/
theorem effect_setReg {i : Instr} (h : r ∉ i.regs) : effect i (s.setReg r a) = (effect i s).setReg r a := by
  cases i with
  | seed rd =>
    have hd : r ≠ rd := by simpa [Instr.regs] using h
    simp only [effect, writeAcc_setReg_of_ne _ _ _ hd, markValid_setReg_of_ne _ _ hd]
    rfl
  | neg rd rs =>
    obtain ⟨hd, hs⟩ : r ≠ rd ∧ r ≠ rs := by simpa [Instr.regs] using h
    simp only [effect, setReg_acc_of_ne _ _ hs, writeAcc_setReg_of_ne _ _ _ hd, markValid_setReg_of_ne _ _ hd]
  | add rd rs =>
    obtain ⟨hd, hs⟩ : r ≠ rd ∧ r ≠ rs := by simpa [Instr.regs] using h
    simp only [effect, setReg_acc_of_ne _ _ hd, setReg_acc_of_ne _ _ hs, writeAcc_setReg_of_ne _ _ _ hd]
  | isu rs | exu rs | isn rs | exn rs =>
    have hs : r ≠ rs := by simpa [Instr.regs] using h
    simp only [effect, setReg_acc_of_ne _ _ hs]
    rfl

theorem exec_setReg {i : Instr} (h : r ∉ i.regs) :
    exec i (s.setReg r a) = onNext (fun t => t.setReg r a) (exec i s) := by
  rw [exec_eq, exec_eq, instrCause_setReg s a h]
  cases instrCause s i with
  | some c => rfl
  | none => exact congrArg Host.Outcome.next (effect_setReg s a h)

end SetReg

/-- A register that is not the destination keeps its bits and its VALID bit, a fault included. -/
theorem acc_valid_of_ne_dest {i : Instr} {s t : State} {r : RegIx} (h : exec i s = .next t)
    (hr : i.dest ≠ some r) : t.acc r = s.acc r ∧ t.valid r = s.valid r := by
  rw [exec_eq] at h
  cases h
  cases instrCause s i with
  | some c => exact ⟨takeFault_acc s r c, takeFault_valid s r c⟩
  | none => exact ⟨effect_acc_of_ne_dest s hr, effect_valid_of_ne_dest s hr⟩

/-- Settles O26: the checks and the writes commute with a change of an unnamed register, and so does a fault. -/
theorem commandsTouchOnlyTheRegistersTheyName : Obligations.CommandsTouchOnlyTheRegistersTheyName := by
  unfold Obligations.CommandsTouchOnlyTheRegistersTheyName
  exact ⟨fun i s r a h => exec_setReg s a h, fun i s t r h hr => acc_valid_of_ne_dest h hr⟩

/-! ### Repeated readouts (R21) -/

/-- Recording the same cause again changes nothing. -/
theorem recordCause_recordCause (st : BitVec 8) (c : Cause) :
    recordCause (recordCause st c) c = recordCause st c := by
  apply BitVec.eq_of_getLsbD_eq
  intro k _
  simp only [recordCause_getLsbD]
  split_ifs <;> rfl

theorem takeFault_takeFault (s : State) (c : Cause) : (s.takeFault c).takeFault c = s.takeFault c := by
  ext1 <;> simp [recordCause_recordCause]

section Readout
variable {i : Instr} (hi : i.dest = none)
include hi

/-- A command without a destination writes PF or XR and no register. -/
theorem effect_file_of_dest_none (s : State) : (effect i s).file = s.file := by
  cases i with
  | seed | neg | add => cases hi
  | isu | exu | isn | exn => rfl

/-- A command without a destination writes again what it wrote, its register being unchanged. -/
theorem effect_effect_of_dest_none (s : State) : effect i (effect i s) = effect i s := by
  cases i with
  | seed | neg | add => cases hi
  | isu | exu | isn | exn => rfl

/-- Repeated at once, a command without a destination raises what it raised before or runs as it ran before. -/
theorem exec_again_of_dest_none {s t : State} (h : exec i s = .next t) : exec i t = .next t := by
  rw [exec_eq] at h
  cases hc : instrCause s i with
  | some c =>
    obtain rfl : s.takeFault c = t := by simpa [hc] using h
    rw [exec_eq, instrCause_congr i (takeFault_file s c), hc]
    exact congrArg _ (takeFault_takeFault s c)
  | none =>
    obtain rfl : effect i s = t := by simpa [hc] using h
    rw [exec_eq, instrCause_congr i (effect_file_of_dest_none hi s), hc]
    exact congrArg _ (effect_effect_of_dest_none hi s)

end Readout

/-- Settles O52: the four readouts are the commands without a destination. -/
theorem readoutIsIdempotent : Obligations.ReadoutIsIdempotent := by
  unfold Obligations.ReadoutIsIdempotent
  intro s t r i hmem h
  have hi : i.dest = none := by
    simp only [List.mem_cons, List.not_mem_nil, or_false] at hmem
    obtain rfl | rfl | rfl | rfl := hmem <;> rfl
  exact exec_again_of_dest_none hi h

/-! ### Acceptance and the response (R14 to R16) -/

theorem accepts_iff (s : State) :
    s.accepts = true ↔ s.ports.rstN = true ∧ s.ports.cmdValid = true ∧ s.cmdReady = true := by
  simp [State.accepts, and_assoc]

theorem afterEdge_of_reset {s : State} (hr : s.ports.rstN = false) : afterEdge s = resetEdge s := by
  simp [afterEdge, hr]

theorem afterEdge_of_accepts {s : State} (ha : s.accepts = true) :
    afterEdge s = answerEdge (afterCommand s) := by
  obtain ⟨hr, -, -⟩ := (accepts_iff s).mp ha
  simp [afterEdge, hr, ha]

theorem afterEdge_of_idle {s : State} (hr : s.ports.rstN = true) (ha : s.accepts = false) :
    afterEdge s = idleEdge s := by
  simp [afterEdge, hr, ha]

/-- The end of an edge shows an answer and moves the host's inputs on; it changes no element. -/
theorem sameBlock_answerEdge (s : State) : SameBlock s (answerEdge s) := by
  simp [SameBlock, SameFile, SameResults, SameFault]

theorem sameBlock_idleEdge (s : State) : SameBlock s (idleEdge s) := by
  simp [SameBlock, SameFile, SameResults, SameFault]

/-- Settles O42: the edge that accepts a command ends with what the command did, the idle one with what there was. -/
theorem acceptedCommandsExecuteAndOthersChangeNothing :
    Obligations.AcceptedCommandsExecuteAndOthersChangeNothing := by
  unfold Obligations.AcceptedCommandsExecuteAndOthersChangeNothing
  refine fun s => ⟨accepts_iff s, fun ha => ?_, fun hr ha => ?_⟩
  · refine ⟨_, _, acceptCommand_eq s, step_eq s, ?_⟩
    exact afterEdge_of_accepts ha ▸ sameBlock_answerEdge (afterCommand s)
  · refine ⟨_, step_eq s, ?_⟩
    exact afterEdge_of_idle hr ha ▸ sameBlock_idleEdge s

/-- The response is a view of the block's own state. -/
theorem response_eq_of_sameBlock {s t : State} (h : SameBlock s t) : response t = response s := by
  obtain ⟨-, ⟨hpf, hxr⟩, hstatus, hfcmd⟩ := h
  simp [response, faulted_congr hstatus, cause_congr hstatus, hfcmd, hpf, hxr]

theorem cmdReady_afterEdge (s : State) : (afterEdge s).cmdReady = s.ports.rstN := by
  cases hr : s.ports.rstN with
  | false => simp [afterEdge_of_reset hr, State.cmdReady]
  | true =>
    cases ha : s.accepts with
    | false => simp [afterEdge_of_idle hr ha, State.cmdReady]
    | true => simp [afterEdge_of_accepts ha, State.cmdReady]

theorem rspValid_afterEdge (s : State) : (afterEdge s).rspValid = s.accepts := by
  cases ha : s.accepts with
  | true => simp [afterEdge_of_accepts ha]
  | false =>
    cases hr : s.ports.rstN with
    | false => simp [afterEdge_of_reset hr]
    | true => simp [afterEdge_of_idle hr ha]

/-- Settles O43: by the kind of edge. -/
theorem readyAndResponseFollowTheEdge : Obligations.ReadyAndResponseFollowTheEdge := by
  unfold Obligations.ReadyAndResponseFollowTheEdge
  intro s t h
  rw [step_eq] at h
  cases h
  refine ⟨cmdReady_afterEdge s, rspValid_afterEdge s, rfl, rfl, rfl, rfl, rfl, rfl, rfl, fun hr ha => ?_⟩
  exact afterEdge_of_idle hr ha ▸ response_eq_of_sameBlock (sameBlock_idleEdge s)

/-! ### What an edge depends on (R17, R18) -/

theorem sameBlock_trans {s t u : State} (hst : SameBlock s t) (htu : SameBlock t u) : SameBlock s u := by
  obtain ⟨hfile, ⟨hpf, hxr⟩, hstatus, hfcmd⟩ := hst
  obtain ⟨hfile', ⟨hpf', hxr'⟩, hstatus', hfcmd'⟩ := htu
  exact ⟨hfile'.trans hfile, ⟨hpf'.trans hpf, hxr'.trans hxr⟩, hstatus'.trans hstatus, hfcmd'.trans hfcmd⟩

theorem sameBlock_symm {s t : State} (h : SameBlock s t) : SameBlock t s := by
  obtain ⟨hfile, ⟨hpf, hxr⟩, hstatus, hfcmd⟩ := h
  exact ⟨hfile.symm, ⟨hpf.symm, hxr.symm⟩, hstatus.symm, hfcmd.symm⟩

/-- The block and the port side are the whole state. -/
theorem eq_of_sameBlock_of_samePorts {s t : State} (h : SameBlock s t) (hp : SamePorts s t) : t = s := by
  obtain ⟨hfile, ⟨hpf, hxr⟩, hstatus, hfcmd⟩ := h
  obtain ⟨hreset, hrsp, hports, hfuture⟩ := hp
  exact State.ext hfile hpf hxr hstatus hfcmd hreset hrsp hports hfuture

section SameBlock
variable {s t : State} (h : SameBlock s t)
include h

theorem sameBlock_takeFault (c : Cause) (hcmd : t.ports.cmd = s.ports.cmd) :
    SameBlock (s.takeFault c) (t.takeFault c) := by
  obtain ⟨hfile, hresults, hstatus, -⟩ := h
  exact ⟨hfile, hresults, congrArg (recordCause · c) hstatus, hcmd⟩

theorem sameBlock_writeAcc (r : RegIx) (v : Word96) : SameBlock (s.writeAcc r v) (t.writeAcc r v) := by
  obtain ⟨hfile, hrest⟩ := h
  exact ⟨congrArg (fun file : List AccReg => file.modify r.val fun a => { a with value := v }) hfile, hrest⟩

theorem sameBlock_markValid (r : RegIx) : SameBlock (s.markValid r) (t.markValid r) := by
  obtain ⟨hfile, hrest⟩ := h
  exact ⟨congrArg (fun file : List AccReg => file.modify r.val fun a => { a with valid := true }) hfile, hrest⟩

theorem sameBlock_writePf (b : Bool) : SameBlock (s.writePf b) (t.writePf b) := by
  obtain ⟨hfile, ⟨-, hxr⟩, hfault⟩ := h
  exact ⟨hfile, ⟨rfl, hxr⟩, hfault⟩

theorem sameBlock_writeXr (x : Word64) : SameBlock (s.writeXr x) (t.writeXr x) := by
  obtain ⟨hfile, ⟨hpf, -⟩, hfault⟩ := h
  exact ⟨hfile, ⟨hpf, rfl⟩, hfault⟩

/-- A command computes from the block alone, SEED from `din` too. -/
theorem sameBlock_effect {i : Instr} (hdin : ∀ rd, i = .seed rd → t.ports.din = s.ports.din) :
    SameBlock (effect i s) (effect i t) := by
  have ⟨hfile, _⟩ := h
  cases i with
  | seed rd =>
    simp only [effect, seedOperand, hdin rd rfl]
    exact sameBlock_markValid (sameBlock_writeAcc h _ _) _
  | neg rd rs =>
    simp only [effect, acc_congr hfile]
    exact sameBlock_markValid (sameBlock_writeAcc h _ _) _
  | add rd rs =>
    simp only [effect, acc_congr hfile]
    exact sameBlock_writeAcc h _ _
  | isu rs | isn rs =>
    simp only [effect, acc_congr hfile]
    exact sameBlock_writePf h _
  | exu rs | exn rs =>
    simp only [effect, acc_congr hfile]
    exact sameBlock_writeXr h _

/-- "The state after a command is a function of the state before it and the command (`cmd`, `din`) alone"
(R18), and of `din` only where a SEED runs (R17). -/
theorem sameBlock_afterCommand (hcmd : t.ports.cmd = s.ports.cmd)
    (hdin : ∀ rd, s.faulted = false → raisedCause s = none → decode s.nreg s.ports.cmd = .ok (.seed rd) →
      t.ports.din = s.ports.din) :
    SameBlock (afterCommand s) (afterCommand t) := by
  have ⟨hfile, _, hstatus, _⟩ := h
  unfold afterCommand
  rw [faulted_congr hstatus, nreg_congr hfile, hcmd]
  cases hf : s.faulted with
  | true => exact h
  | false =>
    cases hd : decode s.nreg s.ports.cmd with
    | error e => exact sameBlock_takeFault h .illegal hcmd
    | ok i =>
      simp only [instrCause_congr i hfile]
      cases hi : instrCause s i with
      | some c => exact sameBlock_takeFault h c hcmd
      | none =>
        have hraised : raisedCause s = none := (causeOf_of_decode hd).trans hi
        exact sameBlock_effect h fun rd hseed => hdin rd hf hraised (hseed ▸ hd)

theorem sameBlock_resetEdge : SameBlock (resetEdge s) (resetEdge t) := by
  obtain ⟨hfile, -⟩ := h
  simp [SameBlock, SameFile, SameResults, SameFault, nreg_congr hfile]

/-- An edge too depends on the block and the present inputs, on `din` only where a SEED runs. -/
theorem sameBlock_afterEdge (hrst : t.ports.rstN = s.ports.rstN) (haccepts : t.accepts = s.accepts)
    (hcmd : t.ports.cmd = s.ports.cmd)
    (hdin : ∀ rd, s.runsCommand = true → decode s.nreg s.ports.cmd = .ok (.seed rd) →
      t.ports.din = s.ports.din) :
    SameBlock (afterEdge s) (afterEdge t) := by
  cases hr : s.ports.rstN with
  | false =>
    rw [afterEdge_of_reset hr, afterEdge_of_reset (hrst.trans hr)]
    exact sameBlock_resetEdge h
  | true =>
    cases ha : s.accepts with
    | false =>
      rw [afterEdge_of_idle hr ha, afterEdge_of_idle (hrst.trans hr) (haccepts.trans ha)]
      exact sameBlock_trans (sameBlock_symm (sameBlock_idleEdge s)) (sameBlock_trans h (sameBlock_idleEdge t))
    | true =>
      rw [afterEdge_of_accepts ha, afterEdge_of_accepts (haccepts.trans ha)]
      have hafter : SameBlock (afterCommand s) (afterCommand t) :=
        sameBlock_afterCommand h hcmd fun rd hf hc => hdin rd ((runsCommand_eq_true_iff s).mpr ⟨ha, hf, hc⟩)
      exact sameBlock_trans (sameBlock_symm (sameBlock_answerEdge _))
        (sameBlock_trans hafter (sameBlock_answerEdge _))

end SameBlock

theorem inReset_afterEdge (s : State) : (afterEdge s).inReset = !s.ports.rstN := by
  have hready := cmdReady_afterEdge s
  rw [State.cmdReady] at hready
  rw [← hready, Bool.not_not]

/-- Settles O44: the two edges leave the same block, and the port side after an edge does not hold `din`. -/
theorem dinMattersToSeedOnly : Obligations.DinMattersToSeedOnly := by
  unfold Obligations.DinMattersToSeedOnly
  intro s d hno
  have hsame : SameBlock s { s with ports := { s.ports with din := d } } := ⟨rfl, ⟨rfl, rfl⟩, rfl, rfl⟩
  have hblock := sameBlock_afterEdge hsame rfl rfl rfl fun rd hrun hd => absurd ⟨hrun, hd⟩ (hno rd)
  rw [step_eq, step_eq, eq_of_sameBlock_of_samePorts hblock]
  simp [SamePorts, inReset_afterEdge, rspValid_afterEdge, afterEdge_ports, afterEdge_future, State.accepts,
    State.cmdReady]

/-- Settles O45: acceptance is decided by `inReset` and the present inputs, the rest by the block as well. -/
theorem edgeDependsOnStateAndPresentInputsOnly : Obligations.EdgeDependsOnStateAndPresentInputsOnly := by
  unfold Obligations.EdgeDependsOnStateAndPresentInputsOnly
  intro s t h hreset hports
  have haccepts : t.accepts = s.accepts := by simp only [State.accepts, State.cmdReady, hreset, hports]
  refine ⟨_, _, step_eq s, step_eq t, ?_, ?_, ?_⟩
  · exact sameBlock_afterEdge h (by rw [hports]) haccepts (by rw [hports]) fun _ _ _ => by rw [hports]
  · rw [inReset_afterEdge, inReset_afterEdge, hports]
  · rw [rspValid_afterEdge, rspValid_afterEdge, haccepts]

/-! ### The acceptance order (R18) -/

theorem runCommands_cons (s : State) (c : CmdWord × Word64) (cs : List (CmdWord × Word64)) :
    s.runCommands (c :: cs) = (afterCommand { s with ports := PortIn.offer c.1 c.2 }).runCommands cs := by
  rw [State.runCommands, acceptCommand_eq]

/-- Every offered command is accepted: the block is ready at every edge after the first. -/
theorem accepts_withCommands_cons (s : State) (c : CmdWord × Word64) (cs : List (CmdWord × Word64)) :
    (s.withCommands (c :: cs)).accepts = true := rfl

/-- After an edge that took the first of the commands offered, the rest are offered. -/
theorem afterEdge_withCommands_cons (s : State) (c : CmdWord × Word64) (cs : List (CmdWord × Word64)) :
    (afterEdge (s.withCommands (c :: cs))).withCommands cs = afterEdge (s.withCommands (c :: cs)) := by
  apply State.ext
  case inReset => rw [inReset_afterEdge]; rfl
  case ports => rw [afterEdge_ports]; rfl
  case future => rw [afterEdge_future]; rfl
  all_goals rfl

/-- One edge does to the block what the command on the port does. -/
theorem sameBlock_afterCommand_afterEdge {s x : State} (h : SameBlock s x) (c : CmdWord × Word64)
    (cs : List (CmdWord × Word64)) :
    SameBlock (afterCommand { s with ports := PortIn.offer c.1 c.2 }) (afterEdge (x.withCommands (c :: cs))) := by
  rw [afterEdge_of_accepts (accepts_withCommands_cons x c cs)]
  have hoffer : SameBlock { s with ports := PortIn.offer c.1 c.2 } (x.withCommands (c :: cs)) := h
  exact sameBlock_trans (sameBlock_afterCommand hoffer rfl fun _ _ _ _ => rfl) (sameBlock_answerEdge _)

/-- By induction on the commands: the run over the port and the sequential execution stay on the same block. -/
theorem run_withCommands_append (cs later : List (CmdWord × Word64)) {s x : State} (h : SameBlock s x) :
    ∃ t u, s.runCommands cs = .next t ∧ core.run cs.length (x.withCommands (cs ++ later)) = .next u ∧
      SameBlock t u := by
  induction cs generalizing s x with
  | nil => exact ⟨s, x.withCommands later, rfl, rfl, h⟩
  | cons c cs ih =>
    rw [runCommands_cons, List.length_cons, core_run_succ, List.cons_append, ← afterEdge_withCommands_cons]
    exact ih (sameBlock_afterCommand_afterEdge h c (cs ++ later))

/-- Settles O49: the two runs from the one state. -/
theorem commandsExecuteInAcceptanceOrder : Obligations.CommandsExecuteInAcceptanceOrder := by
  unfold Obligations.CommandsExecuteInAcceptanceOrder
  exact fun s cs later => run_withCommands_append cs later ⟨rfl, ⟨rfl, rfl⟩, rfl, rfl⟩

end Sys2Proof.Machine

/-! Command encoding (30_encoding.md). The decoder on the encoder's words and the encoder on the decoder's, the rows of
R24's table as the sets of words of their commands, and the assembler's words. -/

namespace Sys2Proof.Machine

/-! ### The two directions of the round trip (R24, R26) -/

@[simp] theorem opcodeOf_bits (op : Opcode) : opcodeOf op.bits = some op :=
  (opcodeOf_eq_some_iff op.bits op).mpr rfl

/-- A word is packed from fields exactly where these are its fields. -/
theorem packWord_eq_iff (rs rd : RegIx) (op : Opcode) (w : CmdWord) :
    packWord rs rd op = w ↔ zField w = 0#4 ∧ opField w = op.bits ∧ rdField w = rd ∧ rsField w = rs := by
  constructor
  · rintro rfl
    exact ⟨zField_packWord rs rd op, opField_packWord rs rd op, rdField_packWord rs rd op, rsField_packWord rs rd op⟩
  · rintro ⟨hz, hop, rfl, rfl⟩
    exact packWord_fields w op hz hop

/-- On the word of a command only R25's check is left to the decoder. -/
theorem decode_encode (nreg : Nat) (i : Instr) : decode nreg (encode i) = withRegisters nreg i := by
  cases i with
  | neg rd rs | add rd rs =>
    simp [decode, encode, zField_packWord, opField_packWord, rdField_packWord, rsField_packWord]
  | seed r | isu r | exu r | isn r | exn r =>
    simp [decode, encode, zField_packWord, opField_packWord, rdField_packWord, rsField_packWord, withUnusedZero]

theorem decode_encode_of_wellFormed {nreg : Nat} {i : Instr} (h : i.wellFormed nreg = true) :
    decode nreg (encode i) = .ok i := by
  rw [decode_encode, withRegisters_eq_ok_iff]
  exact ⟨h, rfl⟩

theorem encode_of_decode {nreg : Nat} {w : CmdWord} {i : Instr} (h : decode nreg w = .ok i) : encode i = w := by
  unfold decode at h
  split at h
  case isTrue => cases h
  case isFalse hz =>
    have hz : zField w = 0#4 := not_not.mp hz
    cases hop : opcodeOf (opField w) with
    | none => simp [hop] at h
    | some op =>
      have hbits : opField w = op.bits := (opcodeOf_eq_some_iff _ _).mp hop
      rw [hop] at h
      cases op with
      | neg | add =>
        obtain ⟨-, rfl⟩ := (withRegisters_eq_ok_iff _ _ _).mp h
        exact packWord_fields w _ hz hbits
      | seed | isu | exu | isn | exn =>
        obtain ⟨hunused, -, rfl⟩ := (withUnusedZero_eq_ok_iff _ _ _ _).mp h
        exact (packWord_eq_iff _ _ _ w).mpr (by simp [hz, hbits, hunused])

theorem decode_eq_ok_iff (nreg : Nat) (w : CmdWord) (i : Instr) :
    decode nreg w = .ok i ↔ i.wellFormed nreg = true ∧ encode i = w := by
  constructor
  · exact fun h => ⟨wellFormed_of_decode h, encode_of_decode h⟩
  · rintro ⟨hw, rfl⟩
    exact decode_encode_of_wellFormed hw

/-- Settles O1: only R25's check is left on the word of a command, and it passes. -/
theorem decodeInvertsEncode : Obligations.DecodeInvertsEncode := by
  unfold Obligations.DecodeInvertsEncode
  exact fun nreg i h => decode_encode_of_wellFormed h

/-- Settles O2: by the opcode; a word with `z = 0` and a zero unused field is packed from its fields. -/
theorem encodeInvertsDecode : Obligations.EncodeInvertsDecode := by
  unfold Obligations.EncodeInvertsDecode
  exact fun nreg w i h => encode_of_decode h

/-! ### The rows of R24's table -/

/-- Each command's word matches its own row and no other. -/
theorem matchesWord_encode (i : Instr) : Laws.RowMatch.Statement i := by
  cases i with
  | seed rd => exact Laws.RowMatch.seed rd
  | neg rd rs => exact Laws.RowMatch.neg rd rs
  | add rd rs => exact Laws.RowMatch.add rd rs
  | isu rs => exact Laws.RowMatch.isu rs
  | exu rs => exact Laws.RowMatch.exu rs
  | isn rs => exact Laws.RowMatch.isn rs
  | exn rs => exact Laws.RowMatch.exn rs

theorem matchesWord_encode_iff {r : OpRow} (hr : r ∈ opRows) (i : Instr) :
    r.matchesWord (encode i) = true ↔ r.op = i.opcode := by
  rw [matchesWord_encode i r hr, decide_eq_true_iff]

/-- The table has one row for each opcode. -/
theorem exists_row (op : Opcode) : ∃ r ∈ opRows, r.op = op := by
  cases op <;> decide

theorem row_eq_of_op_eq : ∀ r ∈ opRows, ∀ q ∈ opRows, r.op = q.op → r = q := by decide

/-- A word agrees with `match` on a field that the mask covers. -/
theorem extractLsb'_eq_of_and_eq {w mask bits : CmdWord} (h : w &&& mask = bits) (p : Nat)
    (hmask : mask.extractLsb' p 4 = BitVec.allOnes 4) : w.extractLsb' p 4 = bits.extractLsb' p 4 := by
  rw [← h, BitVec.extractLsb'_and, hmask, BitVec.and_allOnes]

/-- Every row fixes `z` at zero and `op` at its opcode. -/
theorem zField_opField_row : ∀ r ∈ opRows, zField r.mask = BitVec.allOnes 4 ∧ zField r.matchBits = 0#4 ∧
    opField r.mask = BitVec.allOnes 4 ∧ opField r.matchBits = r.op.bits := by decide

/-- The words that match a row are words of the row's command. -/
theorem exists_encode_of_matchesWord {r : OpRow} (hr : r ∈ opRows) {w : CmdWord} (h : r.matchesWord w = true) :
    ∃ i, i.opcode = r.op ∧ encode i = w := by
  obtain ⟨hzMask, hzBits, hopMask, hopBits⟩ := zField_opField_row r hr
  have hand : w &&& r.mask = r.matchBits := by simpa [OpRow.matchesWord] using h
  have hz : zField w = 0#4 := (extractLsb'_eq_of_and_eq hand 12 hzMask).trans hzBits
  have hop : opField w = r.op.bits := (extractLsb'_eq_of_and_eq hand 0 hopMask).trans hopBits
  have hrd (hmask : r.mask.extractLsb' 4 4 = BitVec.allOnes 4) : rdField w = rdField r.matchBits :=
    congrArg BitVec.toFin (extractLsb'_eq_of_and_eq hand 4 hmask)
  have hrs (hmask : r.mask.extractLsb' 8 4 = BitVec.allOnes 4) : rsField w = rsField r.matchBits :=
    congrArg BitVec.toFin (extractLsb'_eq_of_and_eq hand 8 hmask)
  simp only [opRows, List.mem_cons, List.not_mem_nil, or_false] at hr
  obtain rfl | rfl | rfl | rfl | rfl | rfl | rfl := hr
  · exact ⟨.seed (rdField w), rfl, (packWord_eq_iff _ _ _ w).mpr ⟨hz, hop, rfl, hrs (by decide)⟩⟩
  · exact ⟨.neg (rdField w) (rsField w), rfl, packWord_fields w _ hz hop⟩
  · exact ⟨.add (rdField w) (rsField w), rfl, packWord_fields w _ hz hop⟩
  · exact ⟨.isu (rsField w), rfl, (packWord_eq_iff _ _ _ w).mpr ⟨hz, hop, hrd (by decide), rfl⟩⟩
  · exact ⟨.exu (rsField w), rfl, (packWord_eq_iff _ _ _ w).mpr ⟨hz, hop, hrd (by decide), rfl⟩⟩
  · exact ⟨.isn (rsField w), rfl, (packWord_eq_iff _ _ _ w).mpr ⟨hz, hop, hrd (by decide), rfl⟩⟩
  · exact ⟨.exn (rsField w), rfl, (packWord_eq_iff _ _ _ w).mpr ⟨hz, hop, hrd (by decide), rfl⟩⟩

/-- No word matches two rows. -/
theorem row_eq_of_matchesWord {r q : OpRow} (hr : r ∈ opRows) (hq : q ∈ opRows) {w : CmdWord}
    (hrw : r.matchesWord w = true) (hqw : q.matchesWord w = true) : r = q := by
  obtain ⟨i, hop, rfl⟩ := exists_encode_of_matchesWord hr hrw
  have hqop : q.op = i.opcode := (matchesWord_encode_iff hq i).mp hqw
  exact row_eq_of_op_eq r hr q hq (hop.symm.trans hqop.symm)

/-! ### The fields as numbers (R22) -/

/-- `packWord_eq_iff` with the fields as numbers. -/
theorem packWord_eq_iff_num (rs rd : RegIx) (op : Opcode) (w : CmdWord) :
    packWord rs rd op = w ↔
      zNum w = 0 ∧ opNum w = op.bits.toNat ∧ rdNum w = rd.val ∧ rsNum w = rs.val := by
  rw [packWord_eq_iff, zField_eq_zero_iff, ← BitVec.toNat_inj, opField_toNat, Fin.ext_iff, Fin.ext_iff, rdField_val,
    rsField_val]

@[simp] theorem zNum_packWord (rs rd : RegIx) (op : Opcode) : zNum (packWord rs rd op) = 0 :=
  ((packWord_eq_iff_num rs rd op _).mp rfl).1

@[simp] theorem rdNum_packWord (rs rd : RegIx) (op : Opcode) : rdNum (packWord rs rd op) = rd.val := by
  rw [← rdField_val, rdField_packWord]

@[simp] theorem rsNum_packWord (rs rd : RegIx) (op : Opcode) : rsNum (packWord rs rd op) = rs.val := by
  rw [← rsField_val, rsField_packWord]

theorem zNum_encode (i : Instr) : zNum (encode i) = 0 := by
  cases i <;> exact zNum_packWord _ _ _

/-- Settles O3: a legal word is its command's, whose unused fields are zero and whose row is the only one it matches. -/
theorem legalWordMatchesExactlyOneRow : Obligations.LegalWordMatchesExactlyOneRow := by
  unfold Obligations.LegalWordMatchesExactlyOneRow
  refine ⟨fun nreg w i h => ?_, fun w r hr q hq => row_eq_of_matchesWord hr hq⟩
  obtain rfl := encode_of_decode h
  refine ⟨zNum_encode i, fun hseed => ?_, fun hread => ?_, ?_⟩
  · cases i with
    | seed rd => exact rsNum_packWord 0 rd .seed
    | _ => cases hseed
  · cases i with
    | seed | neg | add => simp [Instr.opcode] at hread
    | isu rs | exu rs | isn rs | exn rs => exact rdNum_packWord rs 0 _
  · obtain ⟨r, hr, hop⟩ := exists_row i.opcode
    have hmatch : r.matchesWord (encode i) = true := (matchesWord_encode_iff hr i).mpr hop
    exact ⟨r, hr, hop, hmatch, fun q hq hqw => row_eq_of_matchesWord hq hr hqw hmatch⟩

/-! ### Existing registers (R25) -/

theorem illegalWord_encode_iff (nreg : Nat) (i : Instr) :
    IllegalWord nreg (encode i) ↔ i.wellFormed nreg = false := by
  rw [IllegalWord, decode_encode, withRegisters]
  cases i.wellFormed nreg <;> simp

/-- A command exists exactly where every register it names does. -/
theorem wellFormed_eq_false_iff (nreg : Nat) (i : Instr) :
    i.wellFormed nreg = false ↔ ∃ r ∈ i.regs, nreg ≤ r.val := by
  cases i with
  | neg rd rs | add rd rs =>
    simp only [Instr.wellFormed, registerExists, Instr.regs, Bool.and_eq_false_iff, decide_eq_false_iff_not, not_lt,
      List.exists_mem_cons_iff, List.not_mem_nil, false_and, exists_false, or_false]
  | seed r | isu r | exu r | isn r | exn r => simp [Instr.wellFormed, registerExists, Instr.regs]

/-- A block with 16 registers has every register that a field can name. -/
theorem wellFormed_sixteen (i : Instr) : i.wellFormed 16 = true := by
  rw [← Bool.not_eq_false, wellFormed_eq_false_iff]
  rintro ⟨r, -, hr⟩
  exact absurd r.isLt (by omega)

/-- Settles O4: a word that matches a row is a command's, illegal exactly where the command does not exist. -/
theorem registerFieldsNameExistingRegisters : Obligations.RegisterFieldsNameExistingRegisters := by
  unfold Obligations.RegisterFieldsNameExistingRegisters
  refine ⟨fun nreg w r hr h => ?_, fun w r hr h => ?_⟩
  · obtain ⟨i, hop, rfl⟩ := exists_encode_of_matchesWord hr h
    rw [illegalWord_encode_iff, wellFormed_eq_false_iff, ← hop]
    cases i <;> simp [encode, Instr.opcode, Instr.regs]
  · obtain ⟨i, -, rfl⟩ := exists_encode_of_matchesWord hr h
    rw [illegalWord_encode_iff, wellFormed_sixteen]
    decide

/-! ### The pseudocode of `Decode` (R26) -/

theorem raisedCause_of_illegalWord {s : State} (h : IllegalWord s.nreg s.ports.cmd) :
    raisedCause s = some .illegal := by
  obtain ⟨e, he⟩ := h
  simp [raisedCause, causeOf, he]

/-- Settles O5: a word decodes to a command exactly where the command exists and the word is packed from its fields. -/
theorem decodeFollowsThePseudocode : Obligations.DecodeFollowsThePseudocode := by
  unfold Obligations.DecodeFollowsThePseudocode
  refine ⟨fun nreg w i => ?_, fun s hrun ha hill => ?_⟩
  · rw [decode_eq_ok_iff]
    cases i <;>
      simp only [encode, packWord_eq_iff_num, Instr.wellFormed, registerExists, Opcode.bits, Bool.and_eq_true,
        decide_eq_true_iff, BitVec.toNat_ofNat, Fin.val_zero, Nat.reducePow, Nat.reduceMod] <;> tauto
  · exact ⟨_, step_eq s, faultedWith_of_step (step_eq s) ha hrun (raisedCause_of_illegalWord hill)⟩

end Sys2Proof.Machine

/-! The assembler's words and the pseudo-instructions (30_encoding.md R28, R29). -/

namespace Sys2Proof.Machine

/-! ### Words by number -/

/-- The packed word is `0x0SDx`. -/
theorem packWord_eq_wordOf (rs rd : RegIx) (op : Opcode) :
    packWord rs rd op = wordOf op.bits.toNat rd.val rs.val := by
  have hrs := rs.isLt
  have hrd := rd.isLt
  have hop := op.bits.isLt
  rw [packWord_eq_iff_num]
  simp only [wordOf, zNum, opNum, rdNum, rsNum, BitVec.toNat_ofNat]
  omega

section Words
variable (rd rs : RegIx)

theorem encode_seed : encode (.seed rd) = wordOf 1 rd.val 0 := packWord_eq_wordOf 0 rd .seed
theorem encode_neg : encode (.neg rd rs) = wordOf 2 rd.val rs.val := packWord_eq_wordOf rs rd .neg
theorem encode_add : encode (.add rd rs) = wordOf 3 rd.val rs.val := packWord_eq_wordOf rs rd .add
theorem encode_isu : encode (.isu rs) = wordOf 4 0 rs.val := packWord_eq_wordOf rs 0 .isu
theorem encode_exu : encode (.exu rs) = wordOf 5 0 rs.val := packWord_eq_wordOf rs 0 .exu
theorem encode_isn : encode (.isn rs) = wordOf 6 0 rs.val := packWord_eq_wordOf rs 0 .isn
theorem encode_exn : encode (.exn rs) = wordOf 7 0 rs.val := packWord_eq_wordOf rs 0 .exn

end Words

/-! ### The forms of R28, on registers that exist -/

section Forms
variable {nreg : Nat} {d r : RegIx} (hd : d.val < nreg) (hr : r.val < nreg)

section Seed
include hd

theorem assemble_seed (u : Word64) : assemble nreg (.seed d.val (u.toNat : Int)) = .ok [(encode (.seed d), u)] := by
  simp only [assemble, Asm.commands, asmReg_of_lt d hd, asmSeed_of_word]
  rfl

theorem assemble_seed_of_out_of_range {u : Int} (hu : u < 0 ∨ 2 ^ 64 ≤ u) :
    assemble nreg (.seed d.val u) = .error .seedOutOfRange := by
  simp only [assemble, Asm.commands, asmReg_of_lt d hd, asmSeed_of_out_of_range hu]
  rfl

end Seed

section TwoRegisters
include hd hr

theorem assemble_neg : assemble nreg (.neg d.val r.val) = .ok [(encode (.neg d r), 0#64)] := by
  simp only [assemble, Asm.commands, asmReg_of_lt d hd, asmReg_of_lt r hr]
  rfl

theorem assemble_add : assemble nreg (.add d.val r.val) = .ok [(encode (.add d r), 0#64)] := by
  simp only [assemble, Asm.commands, asmReg_of_lt d hd, asmReg_of_lt r hr]
  rfl

end TwoRegisters

section Readouts
include hr

theorem assemble_isu : assemble nreg (.isu r.val) = .ok [(encode (.isu r), 0#64)] := by
  simp only [assemble, Asm.commands, asmReg_of_lt r hr]
  rfl

theorem assemble_exu : assemble nreg (.exu r.val) = .ok [(encode (.exu r), 0#64)] := by
  simp only [assemble, Asm.commands, asmReg_of_lt r hr]
  rfl

theorem assemble_isn : assemble nreg (.isn r.val) = .ok [(encode (.isn r), 0#64)] := by
  simp only [assemble, Asm.commands, asmReg_of_lt r hr]
  rfl

theorem assemble_exn : assemble nreg (.exn r.val) = .ok [(encode (.exn r), 0#64)] := by
  simp only [assemble, Asm.commands, asmReg_of_lt r hr]
  rfl

end Readouts

end Forms

/-- Settles O7: the operand checks decide each form; the first register that does not exist refuses the line. -/
theorem assemblerFormsGiveTheListedWords : Obligations.AssemblerFormsGiveTheListedWords := by
  unfold Obligations.AssemblerFormsGiveTheListedWords
  intro nreg d r hd hr
  simp only [← encode_seed, ← encode_neg, ← encode_add, ← encode_isu, ← encode_exu, ← encode_isn, ← encode_exn]
  refine ⟨assemble_seed hd, assemble_neg hd hr, assemble_add hd hr, assemble_isu hr, assemble_exu hr, assemble_isn hr,
    assemble_exn hr, fun u => assemble_seed_of_out_of_range hd, fun n u hn => ?_⟩
  simp only [assemble, Asm.commands, asmReg_of_lt d hd, asmReg_of_lt r hr, asmReg_of_ge hn]
  exact ⟨rfl, rfl, rfl, rfl, rfl, rfl, rfl, rfl, rfl⟩

/-! ### The datapath as bit-vector arithmetic -/

theorem neg96_eq_neg (x : Word96) : neg96 x = -x := by
  have hx := x.isLt
  apply BitVec.eq_of_toNat_eq
  rw [neg96, rippleAdd_toNat, BitVec.toNat_not, BitVec.toNat_neg, BitVec.toNat_ofNat, Bool.toNat_true]
  omega

theorem add96_eq_add (x y : Word96) : add96 x y = x + y := by
  apply BitVec.eq_of_toNat_eq
  rw [add96, rippleAdd_toNat, BitVec.toNat_add, Bool.toNat_false, Nat.add_zero]

/-! ### One command of a list offered at the next edges -/

theorem instrCause_eq_none_of {s : State} {i : Instr} (hw : i.wellFormed s.nreg = true)
    (hread : ∀ r ∈ i.reads, s.valid r = true) (hrange : rangeViolated s i = false) : instrCause s i = none := by
  have hall : i.reads.all s.valid = true := List.all_eq_true.mpr hread
  simp [instrCause, hw, hall, hrange]

theorem afterCommand_of_instrCause_eq_none {s : State} {i : Instr} (hrun : s.running)
    (hcmd : s.ports.cmd = encode i) (hc : instrCause s i = none) : afterCommand s = effect i s := by
  obtain ⟨hw, -⟩ := instrCause_eq_none hc
  rw [State.running] at hrun
  simp [afterCommand, hrun, hcmd, decode_encode_of_wellFormed hw, hc]

/-- The first of the commands offered, where it raises nothing, makes its rule's writes at the edge. -/
theorem afterEdge_withCommands_of_instrCause_eq_none {s : State} {i : Instr} (hrun : s.running)
    (hc : instrCause s i = none) (u : Word64) (cs : List (CmdWord × Word64)) :
    afterEdge (s.withCommands ((encode i, u) :: cs)) =
      answerEdge (effect i (s.withCommands ((encode i, u) :: cs))) := by
  rw [afterEdge_of_accepts (accepts_withCommands_cons _ _ _),
    afterCommand_of_instrCause_eq_none (s := s.withCommands _) hrun rfl ((instrCause_congr i rfl).trans hc)]

theorem core_run_one (s : State) : core.run 1 s = .next (afterEdge s) := core_run_succ 0 s

/-- A run over two commands offered: after the first edge the second is on the port. -/
theorem core_run_two_withCommands (s : State) (c c' : CmdWord × Word64) :
    core.run 2 (s.withCommands [c, c']) =
      .next (afterEdge ((afterEdge (s.withCommands [c, c'])).withCommands [c'])) := by
  rw [core_run_succ, core_run_one, afterEdge_withCommands_cons]

/-! ### What SEED, NEG and ADD write -/

/-- `t` is `s` after a command, or a few, whose whole effect is the value `v` in the written register `d`. -/
def WroteAcc (d : RegIx) (v : Word96) (s t : State) : Prop :=
  t.acc d = v ∧ t.valid d = true ∧ SameFileBut d s t ∧ SameResults s t ∧ SameFault s t

theorem WroteAcc.trans {d : RegIx} {v w : Word96} {s t u : State} (hst : WroteAcc d v s t) (htu : WroteAcc d w t u) :
    WroteAcc d w s u := by
  obtain ⟨-, -, ⟨hn, hfile⟩, ⟨hpf, hxr⟩, hstatus, hfcmd⟩ := hst
  obtain ⟨hacc, hvalid, ⟨hn', hfile'⟩, ⟨hpf', hxr'⟩, hstatus', hfcmd'⟩ := htu
  refine ⟨hacc, hvalid, ⟨hn'.trans hn, fun i hi => ?_⟩, ⟨hpf'.trans hpf, hxr'.trans hxr⟩, hstatus'.trans hstatus,
    hfcmd'.trans hfcmd⟩
  obtain ⟨ha, hv⟩ := hfile i hi
  obtain ⟨ha', hv'⟩ := hfile' i hi
  exact ⟨ha'.trans ha, hv'.trans hv⟩

theorem WroteAcc.nreg {d : RegIx} {v : Word96} {s t : State} (h : WroteAcc d v s t) : t.nreg = s.nreg := by
  obtain ⟨-, -, ⟨hn, -⟩, -⟩ := h
  exact hn

theorem WroteAcc.running {d : RegIx} {v : Word96} {s t : State} (h : WroteAcc d v s t) (hs : s.running) :
    t.running := by
  obtain ⟨-, -, -, -, hstatus, -⟩ := h
  exact (faulted_congr hstatus).trans hs

/-- The end of the edge adds nothing to what was written. -/
theorem WroteAcc.answerEdge {d : RegIx} {v : Word96} {s t : State} (h : WroteAcc d v s t) :
    WroteAcc d v s (answerEdge t) := by
  simpa [WroteAcc, SameFileBut, SameResults, SameFault] using h

/-- A command writes at most its destination. -/
theorem sameFileBut_effect {i : Instr} {d : RegIx} (s : State) (hdest : i.dest = some d) :
    SameFileBut d s (effect i s) := by
  refine ⟨effect_nreg i s, fun q hq => ?_⟩
  have hne : i.dest ≠ some q := by simpa [hdest] using hq.symm
  exact ⟨effect_acc_of_ne_dest s hne, effect_valid_of_ne_dest s hne⟩

theorem sameFault_effect (i : Instr) (s : State) : SameFault s (effect i s) := ⟨effect_status i s, effect_fcmd i s⟩

section Writes
variable {s : State} {d : RegIx}

theorem wroteAcc_effect_seed (hd : d.val < s.nreg) : WroteAcc d (zext96 s.ports.din) s (effect (.seed d) s) :=
  ⟨by simp [effect, seedOperand, hd], by simp [effect, hd], sameFileBut_effect s rfl, ⟨rfl, rfl⟩, sameFault_effect _ s⟩

theorem wroteAcc_effect_neg (r : RegIx) (hd : d.val < s.nreg) :
    WroteAcc d (neg96 (s.acc r)) s (effect (.neg d r) s) :=
  ⟨by simp [effect, hd], by simp [effect, hd], sameFileBut_effect s rfl, ⟨rfl, rfl⟩, sameFault_effect _ s⟩

theorem wroteAcc_effect_add (r : RegIx) (hd : s.valid d = true) :
    WroteAcc d (add96 (s.acc d) (s.acc r)) s (effect (.add d r) s) :=
  ⟨by simp [effect, lt_nreg_of_valid s d hd], by simp [effect, hd], sameFileBut_effect s rfl, ⟨rfl, rfl⟩,
    sameFault_effect _ s⟩

end Writes

/-! ### SEED, NEG and ADD offered to a running block -/

section Offered
variable {s : State} {d r : RegIx} (hrun : s.running) (u : Word64) (cs : List (CmdWord × Word64))
include hrun

theorem wroteAcc_afterEdge_seed (hd : d.val < s.nreg) :
    WroteAcc d (zext96 u) s (afterEdge (s.withCommands ((encode (.seed d), u) :: cs))) := by
  have hc : instrCause s (.seed d) = none :=
    instrCause_eq_none_of (by simpa [Instr.wellFormed, registerExists] using hd) (by simp [Instr.reads]) rfl
  rw [afterEdge_withCommands_of_instrCause_eq_none hrun hc]
  exact (wroteAcc_effect_seed (s := s.withCommands _) hd).answerEdge

theorem wroteAcc_afterEdge_neg (hd : d.val < s.nreg) (hr : s.valid r = true) :
    WroteAcc d (-(s.acc r)) s (afterEdge (s.withCommands ((encode (.neg d r), u) :: cs))) := by
  have hc : instrCause s (.neg d r) = none :=
    instrCause_eq_none_of (by simp [Instr.wellFormed, registerExists, hd, lt_nreg_of_valid s r hr])
      (by simpa [Instr.reads] using hr) rfl
  rw [afterEdge_withCommands_of_instrCause_eq_none hrun hc, ← neg96_eq_neg]
  exact (wroteAcc_effect_neg (s := s.withCommands _) r hd).answerEdge

theorem wroteAcc_afterEdge_add (hd : s.valid d = true) (hr : s.valid r = true) :
    WroteAcc d (s.acc d + s.acc r) s (afterEdge (s.withCommands ((encode (.add d r), u) :: cs))) := by
  have hc : instrCause s (.add d r) = none :=
    instrCause_eq_none_of
      (by simp [Instr.wellFormed, registerExists, lt_nreg_of_valid s d hd, lt_nreg_of_valid s r hr])
      (by simpa [Instr.reads] using ⟨hd, hr⟩) rfl
  rw [afterEdge_withCommands_of_instrCause_eq_none hrun hc, ← add96_eq_add]
  exact (wroteAcc_effect_add (s := s.withCommands _) r hd).answerEdge

end Offered

/-! ### The pseudo-instructions of R29 -/

section Expansions
variable {nreg : Nat} {d : RegIx} (hd : d.val < nreg)
include hd

theorem assemble_clr : assemble nreg (.clr d.val) = .ok [(encode (.seed d), 0#64)] := by
  simp only [assemble, Asm.commands, asmReg_of_lt d hd]
  rfl

theorem assemble_nseed (u : Word64) : assemble nreg (.nseed d.val (u.toNat : Int)) =
    .ok [(encode (.seed d), u), (encode (.neg d d), 0#64)] := by
  simp only [assemble, Asm.commands, asmReg_of_lt d hd, asmSeed_of_word]
  rfl

theorem assemble_nseed_of_out_of_range {u : Int} (hu : u < 0 ∨ 2 ^ 64 ≤ u) :
    assemble nreg (.nseed d.val u) = .error .seedOutOfRange := by
  simp only [assemble, Asm.commands, asmReg_of_lt d hd, asmSeed_of_out_of_range hu]
  rfl

variable {r : RegIx} (hr : r.val < nreg)
include hr

theorem assemble_mov : assemble nreg (.mov d.val r.val) =
    .ok [(encode (.neg d r), 0#64), (encode (.neg d d), 0#64)] := by
  simp only [assemble, Asm.commands, asmReg_of_lt d hd, asmReg_of_lt r hr]
  rfl

theorem assemble_sub {q : RegIx} (hq : q.val < nreg) (hne : q ≠ d) : assemble nreg (.sub d.val r.val q.val) =
    .ok [(encode (.neg q r), 0#64), (encode (.add d q), 0#64)] := by
  simp only [assemble, Asm.commands, asmReg_of_lt d hd, asmReg_of_lt r hr, asmReg_of_lt q hq, hne, if_false, bind,
    Except.bind]
  rfl

theorem assemble_sub_of_scratch_eq_dest :
    assemble nreg (.sub d.val r.val d.val) = .error .scratchIsDestination := by
  simp only [assemble, Asm.commands, asmReg_of_lt d hd, asmReg_of_lt r hr, if_true, bind, Except.bind]

end Expansions

section Effects
variable {s : State} {d r q : RegIx} (hrun : s.running)
include hrun

/-- A SEED of 0. -/
theorem exists_run_clr (hd : d.val < s.nreg) :
    ∃ t, core.run 1 (s.withCommands [(encode (.seed d), 0#64)]) = .next t ∧ WroteAcc d 0#96 s t :=
  ⟨_, core_run_one _, wroteAcc_afterEdge_seed hrun 0#64 [] hd⟩

/-- A SEED and its negation in place. -/
theorem exists_run_nseed (u : Word64) (hd : d.val < s.nreg) :
    ∃ t, core.run 2 (s.withCommands [(encode (.seed d), u), (encode (.neg d d), 0#64)]) = .next t ∧
      WroteAcc d (-(u.setWidth 96)) s t := by
  have hseed := wroteAcc_afterEdge_seed hrun u [(encode (.neg d d), 0#64)] hd
  have ⟨hacc, hvalid, _⟩ := hseed
  have hneg := wroteAcc_afterEdge_neg (hseed.running hrun) 0#64 [] (hseed.nreg ▸ hd) hvalid
  rw [hacc] at hneg
  exact ⟨_, core_run_two_withCommands _ _ _, hseed.trans hneg⟩

/-- Negated into the destination, and back there. -/
theorem exists_run_mov (hd : d.val < s.nreg) (hr : s.valid r = true) :
    ∃ t, core.run 2 (s.withCommands [(encode (.neg d r), 0#64), (encode (.neg d d), 0#64)]) = .next t ∧
      WroteAcc d (s.acc r) s t := by
  have hneg := wroteAcc_afterEdge_neg hrun 0#64 [(encode (.neg d d), 0#64)] hd hr
  have ⟨hacc, hvalid, _⟩ := hneg
  have hback := wroteAcc_afterEdge_neg (hneg.running hrun) 0#64 [] (hneg.nreg ▸ hd) hvalid
  rw [hacc, neg_neg] at hback
  exact ⟨_, core_run_two_withCommands _ _ _, hneg.trans hback⟩

/-- The subtrahend negated into the scratch register, then added to the destination; the frame of each of the two
commands is what keeps the register that the other writes. -/
theorem exists_run_sub (hd : s.valid d = true) (hr : s.valid r = true) (hq : q.val < s.nreg) (hne : q ≠ d) :
    ∃ t, core.run 2 (s.withCommands [(encode (.neg q r), 0#64), (encode (.add d q), 0#64)]) = .next t ∧
      t.acc d = s.acc d - s.acc r ∧ t.acc q = -(s.acc r) ∧ t.valid d = true ∧ t.valid q = true ∧
      (∀ i : RegIx, i ≠ d → i ≠ q → t.acc i = s.acc i ∧ t.valid i = s.valid i) ∧
      SameResults s t ∧ SameFault s t := by
  have hneg := wroteAcc_afterEdge_neg hrun 0#64 [(encode (.add d q), 0#64)] hq hr
  have ⟨haccq, hvalidq, ⟨_, hfile⟩, ⟨hpf, hxr⟩, hstatus, hfcmd⟩ := hneg
  obtain ⟨haccd, hvalidd⟩ := hfile d hne.symm
  have hadd := wroteAcc_afterEdge_add (hneg.running hrun) 0#64 [] (hvalidd.trans hd) hvalidq
  obtain ⟨hacc', hvalid', ⟨-, hfile'⟩, ⟨hpf', hxr'⟩, hstatus', hfcmd'⟩ := hadd
  obtain ⟨haccq', hvalidq'⟩ := hfile' q hne
  refine ⟨_, core_run_two_withCommands _ _ _, ?_, haccq'.trans haccq, hvalid', hvalidq'.trans hvalidq,
    fun i hid hiq => ?_, ⟨hpf'.trans hpf, hxr'.trans hxr⟩, hstatus'.trans hstatus, hfcmd'.trans hfcmd⟩
  · rw [hacc', haccd, haccq, BitVec.sub_eq_add_neg]
  · obtain ⟨ha, hv⟩ := hfile i hiq
    obtain ⟨ha', hv'⟩ := hfile' i hid
    exact ⟨ha'.trans ha, hv'.trans hv⟩

end Effects

/-- Settles O8: the expansion and the run of each pseudo-instruction. -/
theorem pseudoInstructionsHaveTheListedEffects : Obligations.PseudoInstructionsHaveTheListedEffects := by
  unfold Obligations.PseudoInstructionsHaveTheListedEffects
  intro s hrun
  simp only [← encode_seed, ← encode_neg, ← encode_add]
  refine ⟨fun d hd => ⟨assemble_clr hd, exists_run_clr hrun hd⟩,
    fun d u hd => ⟨assemble_nseed hd u, exists_run_nseed hrun u hd⟩,
    fun d u hd => assemble_nseed_of_out_of_range hd,
    fun d r hd ⟨hlt, hr⟩ => ⟨assemble_mov hd hlt, exists_run_mov hrun hd hr⟩,
    fun d r q ⟨hdlt, hd⟩ ⟨hrlt, hr⟩ hq hne => ⟨assemble_sub hdlt hrlt hq hne, exists_run_sub hrun hd hr hq hne⟩,
    fun d r hd hr => assemble_sub_of_scratch_eq_dest hd hr⟩

end Sys2Proof.Machine

/-! Arithmetic on accumulators (40_arith.md). ADD96 and NEG96 limb by limb and as arithmetic modulo `2^96`, and the
three commands that write a register. -/

namespace Sys2Proof.Machine

/-! ### ADD96 (R30) -/

section Limbs
variable (a b c : Limb)

theorem limb0_ofLimbs : limb0 (ofLimbs a b c) = c := BitVec.extractLsb'_append_eq_right

theorem limb1_ofLimbs : limb1 (ofLimbs a b c) = b := by
  have hb := b.isLt
  have hc := c.isLt
  apply BitVec.eq_of_toNat_eq
  rw [limb1_toNat, ofLimbs_toNat]
  omega

theorem limb2_ofLimbs : limb2 (ofLimbs a b c) = a := by
  have hb := b.isLt
  have hc := c.isLt
  apply BitVec.eq_of_toNat_eq
  rw [limb2_toNat, ofLimbs_toNat]
  omega

end Limbs

theorem add96_toNat (x y : Word96) : (add96 x y).toNat = (x.toNat + y.toNat) % 2 ^ 96 := by
  rw [add96_eq_add, BitVec.toNat_add]

/-- The signed sum is reduced into the range of a word. -/
theorem val_add96 (x y : Word96) : val (add96 x y) = (val x + val y).bmod (2 ^ 96) := by
  rw [val_eq_toInt, val_eq_toInt, val_eq_toInt, add96_eq_add, BitVec.toInt_add]

/-- Settles O11: each limb of the sum is one limb of the adder, whose carry in is the carry out of the limb below. -/
theorem additionRipplesModulo96Bits : Obligations.AdditionRipplesModulo96Bits := by
  unfold Obligations.AdditionRipplesModulo96Bits
  refine fun x y => ⟨?_, ?_, ?_, add96_toNat x y, val_add96 x y⟩
  · simp only [add96, rippleAdd, limb0_ofLimbs, sumLimb_toNat, limbSum_toNat, Bool.toNat_false, Nat.add_zero]
  · simp only [add96, rippleAdd, limb1_ofLimbs, sumLimb_toNat, limbSum_toNat, carryOut_toNat, Bool.toNat_false,
      Nat.add_zero]
  · simp only [add96, rippleAdd, limb2_ofLimbs, sumLimb_toNat, limbSum_toNat, carryOut_toNat, Bool.toNat_false,
      Nat.add_zero]

/-! ### NEG96 (R31) -/

theorem neg96_toNat (x : Word96) : (neg96 x).toNat = (2 ^ 96 - x.toNat) % 2 ^ 96 := by
  rw [neg96_eq_neg, BitVec.toNat_neg]

theorem neg96_neg96 (x : Word96) : neg96 (neg96 x) = x := by
  rw [neg96_eq_neg, neg96_eq_neg, neg_neg]

/-- Negation moves every word but the two halfway points of the residues modulo `2^96`. -/
theorem neg96_eq_self_iff (x : Word96) : neg96 x = x ↔ x = 0#96 ∨ x = 0x800000000000000000000000#96 := by
  have hx := x.isLt
  rw [← BitVec.toNat_inj, ← BitVec.toNat_inj, ← BitVec.toNat_inj, neg96_toNat, BitVec.toNat_ofNat, BitVec.toNat_ofNat]
  omega

/-- Settles O12: NEG96 is the negation of bit vectors. -/
theorem negationIsComplementPlusOne : Obligations.NegationIsComplementPlusOne := by
  unfold Obligations.NegationIsComplementPlusOne
  refine ⟨fun x => ⟨neg96_toNat x, ?_, neg96_neg96 x⟩, (neg96_eq_self_iff _).mpr (.inl rfl),
    (neg96_eq_self_iff _).mpr (.inr rfl)⟩
  rw [neg96_eq_neg, add96_eq_add, BitVec.neg_eq_not_add]

/-! ### The laws (R35) -/

/-- The value of a sum is the exact sum, one wrap of `2^96` up or down where that leaves the range. -/
theorem val_add96_cases (x y : Word96) :
    (valMin ≤ val x + val y ∧ val x + val y ≤ valMax → val (add96 x y) = val x + val y) ∧
    (val x + val y < valMin → val (add96 x y) = val x + val y + 2 ^ 96) ∧
    (valMax < val x + val y → val (add96 x y) = val x + val y - 2 ^ 96) := by
  have hx := le_val x
  have hx' := val_le x
  have hy := le_val y
  have hy' := val_le y
  rw [val_add96, Int.bmod_def, valMin, valMax]
  omega

/-- Settles O13: the words are the additive group of the integers modulo `2^96`, and the signed reading is reduced
modulo `2^96` into its range. -/
theorem arithmeticLaws : Obligations.ArithmeticLaws := by
  unfold Obligations.ArithmeticLaws
  intro x y z
  refine ⟨?_, ?_, ?_, neg96_neg96 x, ?_, ?_, neg96_eq_self_iff x, val_add96_cases x y⟩
  · rw [add96_eq_add, add96_eq_add, add_comm]
  · simp only [add96_eq_add, add_assoc]
  · rw [add96_eq_add]
    exact add_zero x
  · rw [add96_eq_add, neg96_eq_neg]
    exact add_neg_cancel x
  · rw [add96_eq_add, add96_eq_add, neg96_eq_neg, add_neg_cancel_right]

/-! ### The words with a given opcode that are illegal (R24, R25) -/

theorem opField_eq_bits {w : CmdWord} {op : Opcode} (h : opNum w = op.bits.toNat) : opField w = op.bits :=
  BitVec.eq_of_toNat_eq ((opField_toNat w).trans h)

theorem exists_withRegisters_eq_error_iff (nreg : Nat) (i : Instr) :
    (∃ e, withRegisters nreg i = .error e) ↔ ∃ r ∈ i.regs, nreg ≤ r.val := by
  rw [← wellFormed_eq_false_iff, withRegisters]
  cases i.wellFormed nreg <;> simp

theorem exists_withUnusedZero_eq_error_iff (nreg : Nat) (u : RegIx) (i : Instr) :
    (∃ e, withUnusedZero nreg u i = .error e) ↔ u ≠ 0 ∨ ∃ r ∈ i.regs, nreg ≤ r.val := by
  by_cases hu : u = 0
  · simp [withUnusedZero, hu, exists_withRegisters_eq_error_iff]
  · simp [withUnusedZero, hu]

/-- `z` is the first field that the decoder checks. -/
theorem illegalWord_of_zNum_ne_zero {nreg : Nat} {w : CmdWord} (h : zNum w ≠ 0) : IllegalWord nreg w :=
  ⟨.reservedField, by simp [decode, zField_eq_zero_iff, h]⟩

theorem illegalWord_iff_of_opNum_seed (nreg : Nat) {w : CmdWord} (hop : opNum w = 1) :
    IllegalWord nreg w ↔ rsNum w ≠ 0 ∨ zNum w ≠ 0 ∨ nreg ≤ rdNum w := by
  by_cases hz : zNum w = 0
  · have hdecode : decode nreg w = withUnusedZero nreg (rsField w) (.seed (rdField w)) := by
      simp [decode, (zField_eq_zero_iff w).mpr hz, opField_eq_bits (op := .seed) hop]
    rw [IllegalWord, hdecode, exists_withUnusedZero_eq_error_iff]
    simp [Instr.regs, hz, rdField_val, ← rsField_val]
  · simp [hz, illegalWord_of_zNum_ne_zero hz]

/-- NEG and ADD use every field but `z`. -/
theorem illegalWord_iff_of_decode_eq_withRegisters {nreg : Nat} {w : CmdWord} {i : Instr}
    (hregs : i.regs = [rdField w, rsField w]) (hdecode : zField w = 0#4 → decode nreg w = withRegisters nreg i) :
    IllegalWord nreg w ↔ zNum w ≠ 0 ∨ nreg ≤ rdNum w ∨ nreg ≤ rsNum w := by
  by_cases hz : zNum w = 0
  · rw [IllegalWord, hdecode ((zField_eq_zero_iff w).mpr hz), exists_withRegisters_eq_error_iff]
    simp [hregs, hz, rdField_val, rsField_val]
  · simp [hz, illegalWord_of_zNum_ne_zero hz]

theorem illegalWord_iff_of_opNum_neg (nreg : Nat) {w : CmdWord} (hop : opNum w = 2) :
    IllegalWord nreg w ↔ zNum w ≠ 0 ∨ nreg ≤ rdNum w ∨ nreg ≤ rsNum w :=
  illegalWord_iff_of_decode_eq_withRegisters (i := .neg (rdField w) (rsField w)) rfl fun hz => by
    simp [decode, hz, opField_eq_bits (op := .neg) hop]

theorem illegalWord_iff_of_opNum_add (nreg : Nat) {w : CmdWord} (hop : opNum w = 3) :
    IllegalWord nreg w ↔ zNum w ≠ 0 ∨ nreg ≤ rdNum w ∨ nreg ≤ rsNum w :=
  illegalWord_iff_of_decode_eq_withRegisters (i := .add (rdField w) (rsField w)) rfl fun hz => by
    simp [decode, hz, opField_eq_bits (op := .add) hop]

/-! ### What `exec` answers -/

theorem samePorts_effect (i : Instr) (s : State) : SamePorts s (effect i s) :=
  ⟨effect_inReset i s, effect_rspValid i s, effect_ports i s, effect_future i s⟩

theorem samePorts_takeFault (c : Cause) (s : State) : SamePorts s (s.takeFault c) := ⟨rfl, rfl, rfl, rfl⟩

theorem wellFormed_of_forall_lt {nreg : Nat} {i : Instr} (h : ∀ r ∈ i.regs, r.val < nreg) :
    i.wellFormed nreg = true := by
  rw [← Bool.not_eq_false, wellFormed_eq_false_iff]
  rintro ⟨r, hr, hge⟩
  exact absurd (h r hr) (by omega)

section Exec
variable {i : Instr} {s : State}

/-- A command that raises a cause takes that fault. -/
theorem exists_exec_faultedWith {c : Cause} (hc : instrCause s i = some c) :
    ∃ t, exec i s = .next t ∧ FaultedWith c s t ∧ SamePorts s t :=
  ⟨s.takeFault c, by rw [exec_eq, hc], faultedWith_takeFault c s, samePorts_takeFault c s⟩

/-- ILLEGAL comes before every other cause (60_exceptions.md R44). -/
theorem exists_exec_illegal (h : ∃ r ∈ i.regs, s.nreg ≤ r.val) :
    ∃ t, exec i s = .next t ∧ FaultedWith .illegal s t ∧ SamePorts s t :=
  exists_exec_faultedWith (by simp [instrCause, (wellFormed_eq_false_iff s.nreg i).mpr h])

theorem exists_exec_uninit (hregs : ∀ r ∈ i.regs, r.val < s.nreg) (hread : ∃ r ∈ i.reads, s.valid r = false) :
    ∃ t, exec i s = .next t ∧ FaultedWith .uninit s t ∧ SamePorts s t :=
  exists_exec_faultedWith (instrCause_eq_uninit (wellFormed_of_forall_lt hregs) hread)

/-- A command that raises no cause and whose whole effect is a written register. -/
theorem exists_exec_wroteAcc {d : RegIx} {v : Word96} (hregs : ∀ r ∈ i.regs, r.val < s.nreg)
    (hread : ∀ r ∈ i.reads, s.valid r = true) (hrange : rangeViolated s i = false)
    (h : WroteAcc d v s (effect i s)) :
    ∃ t, exec i s = .next t ∧ t.acc d = v ∧ t.valid d = true ∧
      SameFileBut d s t ∧ SameResults s t ∧ SameFault s t ∧ SamePorts s t := by
  have hc := instrCause_eq_none_of (wellFormed_of_forall_lt hregs) hread hrange
  obtain ⟨hacc, hvalid, hfile, hresults, hfault⟩ := h
  exact ⟨effect i s, by rw [exec_eq, hc], hacc, hvalid, hfile, hresults, hfault, samePorts_effect i s⟩

end Exec

/-! ### SEED (R32) -/

/-- A zero-extended word has a zero top limb. -/
theorem band_zext96 (u : Word64) : band (zext96 u) = .u := by
  have hu := u.isLt
  have htop : limb2 (zext96 u) = 0#32 := by
    rw [limb2_eq_iff, zext96, BitVec.toNat_setWidth, BitVec.toNat_ofNat]
    omega
  rw [band, if_pos htop]

theorem exists_exec_seed {s : State} {rd : RegIx} (hd : rd.val < s.nreg) :
    ∃ t, exec (.seed rd) s = .next t ∧
      t.acc rd = s.ports.din.setWidth 96 ∧ t.valid rd = true ∧ band (t.acc rd) = .u ∧
      SameFileBut rd s t ∧ SameResults s t ∧ SameFault s t ∧ SamePorts s t := by
  obtain ⟨t, hexec, hacc, hvalid, hframe⟩ := exists_exec_wroteAcc (i := .seed rd) (by simpa [Instr.regs] using hd)
    (by simp [Instr.reads]) rfl (wroteAcc_effect_seed hd)
  exact ⟨t, hexec, hacc, hvalid, hacc ▸ band_zext96 s.ports.din, hframe⟩

/-- A register becomes valid by a SEED, or by a NEG that read a valid one; an ADD reads its own destination. -/
theorem eq_seed_or_neg_of_exec {s t : State} {i : Instr} {r : RegIx} (h : exec i s = .next t)
    (hs : s.valid r = false) (ht : t.valid r = true) : i = .seed r ∨ ∃ q, i = .neg r q ∧ s.valid q = true := by
  rw [exec_eq] at h
  cases h
  cases hc : instrCause s i with
  | some c => simp [hc, hs] at ht
  | none =>
    rw [hc] at ht
    obtain ⟨-, hread, -⟩ := instrCause_eq_none hc
    have hr : r.val < s.nreg := effect_nreg i s ▸ lt_nreg_of_valid _ r ht
    obtain hvalid | hseed | ⟨q, rfl⟩ := (effect_valid_iff i s hr).mp ht
    · simp [hs] at hvalid
    · exact .inl hseed
    · exact .inr ⟨q, rfl, hread q (by simp [Instr.reads])⟩

/-- Settles O18: SEED reads no register, so ILLEGAL is the one cause it can raise. -/
theorem seedWritesZeroExtendedDin : Obligations.SeedWritesZeroExtendedDin := by
  unfold Obligations.SeedWritesZeroExtendedDin
  exact ⟨encode_seed, fun nreg rd u hd => assemble_seed hd u, fun nreg w hop => illegalWord_iff_of_opNum_seed nreg hop,
    fun s rd _ hd => exists_exec_seed hd, fun s rd _ hd => exists_exec_illegal (by simpa [Instr.regs] using hd),
    fun s t i r => eq_seed_or_neg_of_exec⟩

/-! ### NEG and ADD (R33, R34) -/

/-- Settles O19: NEG reads `rs` alone, so its destination may be any register of the block. -/
theorem negWritesTheNegation : Obligations.NegWritesTheNegation := by
  unfold Obligations.NegWritesTheNegation
  refine ⟨encode_neg, fun nreg rd rs hd hr => assemble_neg hd hr,
    fun nreg w hop => illegalWord_iff_of_opNum_neg nreg hop, fun s rd rs _ hd ⟨hrlt, hr⟩ => ?_,
    fun s rd rs _ => ⟨fun h => ?_, fun hd hrlt hr => ?_⟩⟩
  · exact exists_exec_wroteAcc (by simpa [Instr.regs] using ⟨hd, hrlt⟩) (by simpa [Instr.reads] using hr) rfl
      (wroteAcc_effect_neg rs hd)
  · exact exists_exec_illegal (by simpa [Instr.regs] using h)
  · exact exists_exec_uninit (by simpa [Instr.regs] using ⟨hd, hrlt⟩) (by simpa [Instr.reads] using hr)

/-- Settles O20: ADD reads both of its registers before it writes one. -/
theorem addWritesTheSum : Obligations.AddWritesTheSum := by
  unfold Obligations.AddWritesTheSum
  refine ⟨encode_add, fun nreg rd rs hd hr => assemble_add hd hr,
    fun nreg w hop => illegalWord_iff_of_opNum_add nreg hop, fun s rd rs _ ⟨hdlt, hd⟩ ⟨hrlt, hr⟩ => ?_,
    fun s rd rs _ => ⟨fun h => ?_, fun hdlt hrlt h => ?_⟩⟩
  · exact exists_exec_wroteAcc (by simpa [Instr.regs] using ⟨hdlt, hrlt⟩) (by simpa [Instr.reads] using ⟨hd, hr⟩) rfl
      (wroteAcc_effect_add rs hd)
  · exact exists_exec_illegal (by simpa [Instr.regs] using h)
  · exact exists_exec_uninit (by simpa [Instr.regs] using ⟨hdlt, hrlt⟩) (by simpa [Instr.reads] using h)

end Sys2Proof.Machine

/-! Representability predicates and extractors (41_extract.md). The two predicates and the four bands as ranges of the
signed reading, and the four commands that read a register out and write none. -/

namespace Sys2Proof.Machine

/-! ### The top limb and bit 63 as ranges of values (R36, R37) -/

theorem getLsbD_63_iff (x : Word96) : x.getLsbD 63 = true ↔ x.toNat / 2 ^ 63 % 2 = 1 := by
  rw [← toNat_getLsbD]
  cases x.getLsbD 63 <;> simp

theorem limb2_eq_zero_iff (x : Word96) : limb2 x = 0#32 ↔ 0 ≤ val x ∧ val x ≤ 2 ^ 64 - 1 := by
  have hx := x.isLt
  rw [limb2_eq_iff, val_eq_div, BitVec.toNat_ofNat]
  omega

theorem limb2_eq_allOnes_iff (x : Word96) : limb2 x = 0xFFFFFFFF#32 ↔ -2 ^ 64 ≤ val x ∧ val x ≤ -1 := by
  have hx := x.isLt
  rw [limb2_eq_iff, val_eq_div, BitVec.toNat_ofNat]
  omega

/-- Under a top limb of ones, bit 63 says which half of the range the value lies in. -/
theorem getLsbD_63_iff_of_limb2_eq_allOnes {x : Word96} (h : limb2 x = 0xFFFFFFFF#32) :
    x.getLsbD 63 = true ↔ -2 ^ 63 ≤ val x := by
  have hx := x.isLt
  rw [limb2_eq_iff, BitVec.toNat_ofNat] at h
  rw [getLsbD_63_iff, val_eq_div]
  omega

theorem limb2_eq_allOnes_and_getLsbD_63_iff (x : Word96) :
    limb2 x = 0xFFFFFFFF#32 ∧ x.getLsbD 63 = true ↔ -2 ^ 63 ≤ val x ∧ val x ≤ -1 := by
  rw [and_congr_right fun h => getLsbD_63_iff_of_limb2_eq_allOnes h, limb2_eq_allOnes_iff]
  omega

theorem limb2_eq_allOnes_and_not_getLsbD_63_iff (x : Word96) :
    limb2 x = 0xFFFFFFFF#32 ∧ x.getLsbD 63 = false ↔ -2 ^ 64 ≤ val x ∧ val x ≤ -2 ^ 63 - 1 := by
  rw [← Bool.not_eq_true, and_congr_right fun h => not_congr (getLsbD_63_iff_of_limb2_eq_allOnes h),
    limb2_eq_allOnes_iff]
  omega

theorem predU_iff_limb2 (x : Word96) : predU x = true ↔ limb2 x = 0#32 := beq_iff_eq

theorem predN_iff_limb2 (x : Word96) :
    predN x = true ↔ limb2 x = 0xFFFFFFFF#32 ∧ x.getLsbD 63 = true := by
  rw [predN, Bool.and_eq_true, beq_iff_eq]

theorem predU_iff_val (x : Word96) : predU x = true ↔ 0 ≤ val x ∧ val x ≤ 2 ^ 64 - 1 :=
  (predU_iff_limb2 x).trans (limb2_eq_zero_iff x)

theorem predN_iff_val (x : Word96) : predN x = true ↔ -2 ^ 63 ≤ val x ∧ val x ≤ -1 :=
  (predN_iff_limb2 x).trans (limb2_eq_allOnes_and_getLsbD_63_iff x)

/-! ### The extension tests (R36, R37) -/

theorem low64_zext96 (u : Word64) : low64 (zext96 u) = u := by
  have hu := u.isLt
  apply BitVec.eq_of_toNat_eq
  rw [low64_toNat, zext96, BitVec.toNat_setWidth]
  omega

/-- Bit 63 of a word is the sign bit of its low 64 bits. -/
theorem getLsbD_low64_63 (x : Word96) : (low64 x).getLsbD 63 = x.getLsbD 63 := by simp [low64]

/-- A word is the zero extension of its low half exactly where that half, read as unsigned, is the value. -/
theorem eq_zext96_low64_iff (x : Word96) : x = zext96 (low64 x) ↔ val x = ((low64 x).toNat : Int) := by
  have hx := x.isLt
  rw [← BitVec.toNat_inj, zext96, BitVec.toNat_setWidth, low64_toNat, val_eq_div]
  omega

theorem sgn64_eq_toInt (v : Word64) : sgn64 v = v.toInt := by
  have hv := v.isLt
  rw [sgn64_eq_div, BitVec.toInt_eq_toNat_cond]
  split <;> omega

/-- A word is the sign extension of its low half exactly where that half, read as signed, is the value. -/
theorem eq_signExtend_low64_iff (x : Word96) : x = (low64 x).signExtend 96 ↔ val x = sgn64 (low64 x) := by
  rw [← BitVec.toInt_inj, BitVec.toInt_signExtend_of_le (by decide), val_eq_toInt, sgn64_eq_toInt]

theorem predU_iff_val_eq (x : Word96) : predU x = true ↔ val x = ((low64 x).toNat : Int) := by
  have hx := x.isLt
  rw [predU_iff_val, low64_toNat, val_eq_div]
  omega

theorem predN_iff_val_eq (x : Word96) :
    predN x = true ↔ x.getLsbD 63 = true ∧ val x = sgn64 (low64 x) := by
  have hx := x.isLt
  rw [predN_iff_val, getLsbD_63_iff, sgn64_eq_div, low64_toNat, val_eq_div]
  omega

/-- Settles O15: the zero-extension test compares the value with the low 64 bits. -/
theorem unsignedPredicateIsTheRange : Obligations.UnsignedPredicateIsTheRange := by
  unfold Obligations.UnsignedPredicateIsTheRange
  exact fun x => ⟨predU_iff_limb2 x, predU_iff_val x, (predU_iff_val_eq x).trans (eq_zext96_low64_iff x).symm,
    (predU_iff_val_eq x).mp⟩

/-- Settles O16: the sign-extension test compares the value with the low 64 bits read as signed. -/
theorem negativePredicateIsTheRange : Obligations.NegativePredicateIsTheRange := by
  unfold Obligations.NegativePredicateIsTheRange
  refine fun x => ⟨predN_iff_limb2 x, predN_iff_val x, ?_, fun h => ((predN_iff_val_eq x).mp h).2,
    limb2_eq_allOnes_and_not_getLsbD_63_iff x⟩
  rw [predN_iff_val_eq, eq_signExtend_low64_iff]

/-! ### The bands (R42) -/

/-- The conditions of R42's table, read off the definition branch by branch. -/
theorem band_iff_limb2 (x : Word96) :
    (band x = .u ↔ limb2 x = 0#32) ∧
    (band x = .n ↔ limb2 x = 0xFFFFFFFF#32 ∧ x.getLsbD 63 = true) ∧
    (band x = .g ↔ limb2 x = 0xFFFFFFFF#32 ∧ x.getLsbD 63 = false) ∧
    (band x = .w ↔ limb2 x ≠ 0#32 ∧ limb2 x ≠ 0xFFFFFFFF#32) := by
  unfold band
  split
  case isTrue hzero => simp [hzero]
  case isFalse hzero =>
    split
    case isTrue hones => cases x.getLsbD 63 <;> simp [hones]
    case isFalse hones => simp [hzero, hones]

theorem predU_iff_band (x : Word96) : predU x = true ↔ band x = .u := by
  obtain ⟨hu, -⟩ := band_iff_limb2 x
  exact (predU_iff_limb2 x).trans hu.symm

theorem predN_iff_band (x : Word96) : predN x = true ↔ band x = .n := by
  obtain ⟨-, hn, -⟩ := band_iff_limb2 x
  exact (predN_iff_limb2 x).trans hn.symm

/-- What is left of the range of a word when the values with an extended top limb are taken out. -/
theorem band_eq_w_iff_val (x : Word96) :
    band x = .w ↔ (2 ^ 64 ≤ val x ∧ val x ≤ 2 ^ 95 - 1) ∨ (-2 ^ 95 ≤ val x ∧ val x ≤ -2 ^ 64 - 1) := by
  obtain ⟨-, -, -, hw⟩ := band_iff_limb2 x
  have hlo := le_val x
  have hhi := val_le x
  rw [hw, Ne, Ne, limb2_eq_zero_iff, limb2_eq_allOnes_iff]
  omega

/-! ### Commands that read one register out -/

/-- `r` is the one register the command names, and it is a source. -/
structure ReadsOut (i : Instr) (r : RegIx) : Prop where
  regs : i.regs = [r]
  reads : i.reads = [r]
  dest : i.dest = none

theorem readsOut_isu (r : RegIx) : ReadsOut (.isu r) r := ⟨rfl, rfl, rfl⟩
theorem readsOut_exu (r : RegIx) : ReadsOut (.exu r) r := ⟨rfl, rfl, rfl⟩
theorem readsOut_isn (r : RegIx) : ReadsOut (.isn r) r := ⟨rfl, rfl, rfl⟩
theorem readsOut_exn (r : RegIx) : ReadsOut (.exn r) r := ⟨rfl, rfl, rfl⟩

section Readouts
variable {i : Instr} {r : RegIx} {s : State}

/-- A readout of a readable register has RANGE as the one cause it may raise. -/
theorem ReadsOut.instrCause_eq (hi : ReadsOut i r) (hr : s.readable r) :
    instrCause s i = if rangeViolated s i then some .range else none := by
  obtain ⟨hlt, hvalid⟩ := hr
  have hw : i.wellFormed s.nreg = true := wellFormed_of_forall_lt (by simpa [hi.regs] using hlt)
  simp [instrCause, hw, hi.reads, hvalid]

theorem ReadsOut.exec_eq_effect (hi : ReadsOut i r) (hr : s.readable r) (hrange : rangeViolated s i = false) :
    exec i s = .next (effect i s) := by
  simp [exec_eq, hi.instrCause_eq hr, hrange]

/-- A readout that completes writes PF or XR alone. -/
theorem ReadsOut.frame (hi : ReadsOut i r) (s : State) :
    SameFile s (effect i s) ∧ SameFault s (effect i s) ∧ SamePorts s (effect i s) :=
  ⟨effect_file_of_dest_none hi.dest s, sameFault_effect i s, samePorts_effect i s⟩

theorem ReadsOut.exists_exec_range (hi : ReadsOut i r) (hr : s.readable r) (hrange : rangeViolated s i = true) :
    ∃ t, exec i s = .next t ∧ FaultedWith .range s t ∧ SamePorts s t :=
  exists_exec_faultedWith (by simp [hi.instrCause_eq hr, hrange])

theorem ReadsOut.exists_exec_illegal (hi : ReadsOut i r) (hr : s.nreg ≤ r.val) :
    ∃ t, exec i s = .next t ∧ FaultedWith .illegal s t ∧ SamePorts s t :=
  Machine.exists_exec_illegal (by simpa [hi.regs] using hr)

theorem ReadsOut.exists_exec_uninit (hi : ReadsOut i r) (hr : r.val < s.nreg) (hvalid : s.valid r = false) :
    ∃ t, exec i s = .next t ∧ FaultedWith .uninit s t ∧ SamePorts s t :=
  Machine.exists_exec_uninit (by simpa [hi.regs] using hr) (by simpa [hi.reads] using hvalid)

end Readouts

/-- The four readouts leave `rd` unused. -/
theorem illegalWord_iff_of_opNum_readout (nreg : Nat) {w : CmdWord} {op : Opcode}
    (hmem : op ∈ [Opcode.isu, .exu, .isn, .exn]) (hop : opNum w = op.bits.toNat) :
    IllegalWord nreg w ↔ rdNum w ≠ 0 ∨ zNum w ≠ 0 ∨ nreg ≤ rsNum w := by
  by_cases hz : zNum w = 0
  · have hopcode : opcodeOf (opField w) = some op := (opcodeOf_eq_some_iff _ _).mpr (opField_eq_bits hop)
    have hdecode : ∃ i, ReadsOut i (rsField w) ∧ decode nreg w = withUnusedZero nreg (rdField w) i := by
      simp only [decode, (zField_eq_zero_iff w).mpr hz, hopcode]
      simp only [List.mem_cons, List.not_mem_nil, or_false] at hmem
      obtain rfl | rfl | rfl | rfl := hmem
      · exact ⟨_, readsOut_isu _, rfl⟩
      · exact ⟨_, readsOut_exu _, rfl⟩
      · exact ⟨_, readsOut_isn _, rfl⟩
      · exact ⟨_, readsOut_exn _, rfl⟩
    obtain ⟨i, hi, hdecode⟩ := hdecode
    rw [IllegalWord, hdecode, exists_withUnusedZero_eq_error_iff]
    simp [hi.regs, hz, rsField_val, ← rdField_val]
  · simp [hz, illegalWord_of_zNum_ne_zero hz]

/-! ### What EXU and EXN do on each band (R42) -/

/-- An extractor whose predicate is membership in the band `b` reads the low half there and faults elsewhere. -/
theorem ReadsOut.exists_exec_of_band {i : Instr} {r : RegIx} {s : State} {b : Band} (hi : ReadsOut i r)
    (hs : s.running) (hr : s.readable r) (hband : rangeViolated s i = false ↔ band (s.acc r) = b)
    (hxr : (effect i s).xr = low64 (s.acc r)) :
    ∃ t, exec i s = .next t ∧
      if band (s.acc r) = b then t.xr = low64 (s.acc r) ∧ t.faulted = false else FaultedWith .range s t := by
  by_cases hb : band (s.acc r) = b
  · refine ⟨effect i s, hi.exec_eq_effect hr (hband.mpr hb), ?_⟩
    rw [if_pos hb]
    exact ⟨hxr, (effect_faulted i s).trans hs⟩
  · have hrange : rangeViolated s i = true := by simpa [hb] using hband
    obtain ⟨t, hexec, hfault, -⟩ := hi.exists_exec_range hr hrange
    exact ⟨t, hexec, by rwa [if_neg hb]⟩

theorem rangeViolated_exu_eq_false_iff (s : State) (r : RegIx) :
    rangeViolated s (.exu r) = false ↔ predU (s.acc r) = true := by simp [rangeViolated]

theorem rangeViolated_exn_eq_false_iff (s : State) (r : RegIx) :
    rangeViolated s (.exn r) = false ↔ predN (s.acc r) = true := by simp [rangeViolated]

/-- Settles O17: each band is the condition of one branch of `band`, each condition a range of values, and the two
predicates are membership in U and in N. -/
theorem fourBandsPartitionTheWords : Obligations.FourBandsPartitionTheWords := by
  unfold Obligations.FourBandsPartitionTheWords
  refine ⟨fun x => ?_, fun s r hs hr => ⟨?_, ?_⟩, by decide, by decide, band_zext96⟩
  · obtain ⟨hu, hn, hg, hw⟩ := band_iff_limb2 x
    refine ⟨hu, hn, hg, hw, hu.trans (limb2_eq_zero_iff x), hn.trans (limb2_eq_allOnes_and_getLsbD_63_iff x),
      hg.trans (limb2_eq_allOnes_and_not_getLsbD_63_iff x), band_eq_w_iff_val x, predU_iff_band x, predN_iff_band x, ?_⟩
    rw [predU_iff_band, predN_iff_band]
    rintro ⟨hbu, hbn⟩
    cases hbu.symm.trans hbn
  · exact (readsOut_exu r).exists_exec_of_band hs hr
      ((rangeViolated_exu_eq_false_iff s r).trans (predU_iff_band _)) rfl
  · exact (readsOut_exn r).exists_exec_of_band hs hr
      ((rangeViolated_exn_eq_false_iff s r).trans (predN_iff_band _)) rfl

/-! ### ISU, EXU, ISN and EXN (R38 to R41) -/

/-- Settles O21: ISU checks its register and no range. -/
theorem isuWritesTheUnsignedPredicate : Obligations.IsuWritesTheUnsignedPredicate := by
  unfold Obligations.IsuWritesTheUnsignedPredicate
  exact ⟨encode_isu, fun nreg r hr => assemble_isu hr,
    fun nreg w hop => illegalWord_iff_of_opNum_readout nreg (op := .isu) (by decide) hop,
    fun s r _ hr => ⟨_, (readsOut_isu r).exec_eq_effect hr rfl, rfl, rfl, (readsOut_isu r).frame s⟩,
    fun s r _ => ⟨(readsOut_isu r).exists_exec_illegal, (readsOut_isu r).exists_exec_uninit⟩⟩

/-- Settles O22: EXU completes where `PredU` holds, and there the low 64 bits are the value. -/
theorem exuReadsTheLowBitsOrFaultsRange : Obligations.ExuReadsTheLowBitsOrFaultsRange := by
  unfold Obligations.ExuReadsTheLowBitsOrFaultsRange
  refine ⟨encode_exu, fun nreg r hr => assemble_exu hr,
    fun nreg w hop => illegalWord_iff_of_opNum_readout nreg (op := .exu) (by decide) hop, fun s r _ hr hp => ?_,
    fun s r _ => ⟨(readsOut_exu r).exists_exec_illegal, (readsOut_exu r).exists_exec_uninit, fun hr hp => ?_⟩⟩
  · exact ⟨_, (readsOut_exu r).exec_eq_effect hr ((rangeViolated_exu_eq_false_iff s r).mpr hp), rfl,
      (predU_iff_val_eq _).mp hp, rfl, (readsOut_exu r).frame s⟩
  · exact (readsOut_exu r).exists_exec_range hr (by simp [rangeViolated, hp])

/-- Settles O23: ISN checks its register and no range. -/
theorem isnWritesTheNegativePredicate : Obligations.IsnWritesTheNegativePredicate := by
  unfold Obligations.IsnWritesTheNegativePredicate
  exact ⟨encode_isn, fun nreg r hr => assemble_isn hr,
    fun nreg w hop => illegalWord_iff_of_opNum_readout nreg (op := .isn) (by decide) hop,
    fun s r _ hr => ⟨_, (readsOut_isn r).exec_eq_effect hr rfl, rfl, rfl, (readsOut_isn r).frame s⟩,
    fun s r _ => ⟨(readsOut_isn r).exists_exec_illegal, (readsOut_isn r).exists_exec_uninit⟩⟩

/-- Settles O24: EXN completes where `PredN` holds, and there the low 64 bits read as signed are the value. -/
theorem exnReadsTheLowBitsOrFaultsRange : Obligations.ExnReadsTheLowBitsOrFaultsRange := by
  unfold Obligations.ExnReadsTheLowBitsOrFaultsRange
  refine ⟨encode_exn, fun nreg r hr => assemble_exn hr,
    fun nreg w hop => illegalWord_iff_of_opNum_readout nreg (op := .exn) (by decide) hop, fun s r _ hr hp => ?_,
    fun s r _ => ⟨(readsOut_exn r).exists_exec_illegal, (readsOut_exn r).exists_exec_uninit, fun hr hp => ?_⟩⟩
  · obtain ⟨hbit, hval⟩ := (predN_iff_val_eq _).mp hp
    exact ⟨_, (readsOut_exn r).exec_eq_effect hr ((rangeViolated_exn_eq_false_iff s r).mpr hp), rfl, hval.symm,
      (getLsbD_low64_63 _).trans hbit, rfl, (readsOut_exn r).frame s⟩
  · exact (readsOut_exn r).exists_exec_range hr (by simp [rangeViolated, hp])

/-! ### A seed read back (R42, R55) -/

/-- A readout offered to a running block makes its writes at the edge. -/
theorem ReadsOut.afterEdge_withCommands {i : Instr} {r : RegIx} {s : State} (hi : ReadsOut i r) (hs : s.running)
    (hr : s.readable r) (hrange : rangeViolated s i = false) (u : Word64) (cs : List (CmdWord × Word64)) :
    afterEdge (s.withCommands ((encode i, u) :: cs)) =
      answerEdge (effect i (s.withCommands ((encode i, u) :: cs))) :=
  afterEdge_withCommands_of_instrCause_eq_none hs (by simp [hi.instrCause_eq hr, hrange]) u cs

section Offered
variable {s : State} {r : RegIx} (hs : s.running) (hr : s.readable r) (hp : predU (s.acc r) = true) (u : Word64)
  (cs : List (CmdWord × Word64))
include hs hr

theorem exists_afterEdge_isu :
    ∃ t, afterEdge (s.withCommands ((encode (.isu r), u) :: cs)) = t ∧
      t.file = s.file ∧ t.pf = predU (s.acc r) ∧ t.running := by
  exact ⟨_, (readsOut_isu r).afterEdge_withCommands hs hr rfl u cs, answerEdge_file _, answerEdge_pf _,
    (answerEdge_faulted _).trans ((effect_faulted _ _).trans hs)⟩

include hp

theorem exists_afterEdge_exu :
    ∃ t, afterEdge (s.withCommands ((encode (.exu r), u) :: cs)) = t ∧
      t.xr = low64 (s.acc r) ∧ t.pf = s.pf ∧ t.running ∧ t.rspValid = true := by
  have hrange := (rangeViolated_exu_eq_false_iff s r).mpr hp
  exact ⟨_, (readsOut_exu r).afterEdge_withCommands hs hr hrange u cs, answerEdge_xr _, answerEdge_pf _,
    (answerEdge_faulted _).trans ((effect_faulted _ _).trans hs), answerEdge_rspValid _⟩

/-- ISU changes no register, so EXU at the next edge reads what ISU tested. -/
theorem exists_run_isu_exu :
    ∃ t, core.run 2 (s.withCommands [(encode (.isu r), 0#64), (encode (.exu r), 0#64)]) = .next t ∧
      t.xr = low64 (s.acc r) ∧ t.pf = true ∧ t.running ∧ t.rspValid = true := by
  obtain ⟨m, hm, hfile, hpf, hmrun⟩ := exists_afterEdge_isu hs hr 0#64 [(encode (.exu r), 0#64)]
  obtain ⟨hlt, hvalid⟩ := hr
  have hmr : m.readable r := ⟨(nreg_congr hfile).symm ▸ hlt, (valid_congr hfile r).trans hvalid⟩
  have hacc : m.acc r = s.acc r := acc_congr hfile r
  obtain ⟨t, ht, hxr, htpf, htrun, hrsp⟩ := exists_afterEdge_exu hmrun hmr (hacc.symm ▸ hp) 0#64 []
  refine ⟨t, ?_, hacc ▸ hxr, htpf.trans (hpf.trans hp), htrun, hrsp⟩
  rw [core_run_two_withCommands, hm, ht]

end Offered

/-- Settles O51: SEED leaves its register readable with the zero extension of the seed, which is in band U. -/
theorem seededValueIsReadBack : Obligations.SeededValueIsReadBack := by
  unfold Obligations.SeededValueIsReadBack
  intro s rd u hs hd
  simp only [← encode_seed, ← encode_isu, ← encode_exu]
  have hseed := wroteAcc_afterEdge_seed hs u [(encode (.isu rd), 0#64), (encode (.exu rd), 0#64)] hd
  have ⟨hacc, hvalid, _⟩ := hseed
  have hp : predU (zext96 u) = true := (predU_iff_band _).mpr (band_zext96 u)
  have hrun := exists_run_isu_exu (hseed.running hs) ⟨hseed.nreg.symm ▸ hd, hvalid⟩ (hacc.symm ▸ hp)
  rwa [hacc, low64_zext96, afterEdge_withCommands_cons, ← core_run_succ] at hrun

end Sys2Proof.Machine

/-! Exceptions (60_exceptions.md). Which cause an accepted command raises and what the block holds after it, the
silence of a faulted block, and reset as the one way out of it. -/

namespace Sys2Proof.Machine

/-! ### The step and the command it runs (R44) -/

/-- Settles O27: one of the three kinds of edge applies, and each gives a state. -/
theorem everyStepHasANextState : Obligations.EveryStepHasANextState := by
  unfold Obligations.EveryStepHasANextState
  exact fun s => ⟨afterEdge s, step_eq s⟩

/-- No command touches the port side, a fault included. -/
theorem samePorts_of_exec {i : Instr} {s t : State} (h : exec i s = .next t) : SamePorts s t := by
  rw [exec_eq] at h
  cases h
  cases instrCause s i with
  | some c => exact samePorts_takeFault c s
  | none => exact samePorts_effect i s

theorem answerEdge_eq (s : State) : answerEdge s =
    { s with
      inReset := false
      rspValid := true
      ports := s.future.headD PortIn.idle
      future := s.future.tail } := by
  ext1 <;> simp

/-- The edge runs the decoded command and then shows the answer. -/
theorem exists_exec_step {s : State} {i : Instr} (ha : s.accepts = true) (hs : s.running)
    (hd : decode s.nreg s.ports.cmd = .ok i) :
    ∃ t, exec i s = .next t ∧ step s = .next (answerEdge t) := by
  obtain ⟨hr, -, -⟩ := (accepts_iff s).mp ha
  have hexec := exec_eq i s
  refine ⟨_, hexec, ?_⟩
  rw [State.running] at hs
  simp [step, hr, ha, acceptCommand, hs, hd, hexec, onNext]

/-- Settles O28: a command leaves the port side alone, so the host's next inputs are those of the state before it. -/
theorem stepRunsTheDecodedCommand : Obligations.StepRunsTheDecodedCommand := by
  unfold Obligations.StepRunsTheDecodedCommand
  intro s i ha hs hd
  obtain ⟨t, hexec, hstep⟩ := exists_exec_step ha hs hd
  obtain ⟨-, -, -, hfuture⟩ := samePorts_of_exec hexec
  exact ⟨t, hexec, by rw [hstep, answerEdge_eq, hfuture]⟩

/-- The 16 bits of a fetched command word are the word itself. -/
theorem withFetchWord_cmd (s : State) (w : CmdWord) : (s.withFetchWord 16 w.toNat).ports.cmd = w := by
  rw [withFetchWord_ports, PortIn.offer, Nat.mod_eq_of_lt w.isLt, BitVec.ofNat_toNat, BitVec.setWidth_eq]

/-- Settles O29: the fetched word is offered to a ready block and decodes to its command, which O28 then runs. -/
theorem fetchWordIsTheNextCommandRun : Obligations.FetchWordIsTheNextCommandRun := by
  unfold Obligations.FetchWordIsTheNextCommandRun
  intro s i hs hw
  refine ⟨withFetchWord_file s 16 _, ?_⟩
  have hd : decode s.nreg (s.withFetchWord 16 (encode i).toNat).ports.cmd = .ok i := by
    rw [withFetchWord_cmd, decode_encode_of_wellFormed hw]
  exact stepRunsTheDecodedCommand _ i rfl hs hd

/-! ### The conditions of the causes (R43) -/

/-- A decoded word has passed the check ILLEGAL; UNINIT comes before RANGE. -/
theorem raisedCause_of_decode {s : State} {i : Instr} (hd : decode s.nreg s.ports.cmd = .ok i) :
    raisedCause s =
      if ∃ r ∈ i.reads, s.valid r = false then some .uninit
      else if rangeViolated s i = true then some .range
      else none := by
  have hw := wellFormed_of_decode hd
  rw [raisedCause, causeOf_of_decode hd]
  split
  case isTrue hread => exact instrCause_eq_uninit hw hread
  case isFalse hread =>
    have hall : i.reads.all s.valid = true := by simpa using hread
    simp [instrCause, hw, hall]

theorem raisedCause_eq_illegal_iff (s : State) :
    raisedCause s = some .illegal ↔ IllegalWord s.nreg s.ports.cmd := by
  refine ⟨fun h => ?_, raisedCause_of_illegalWord⟩
  cases hd : decode s.nreg s.ports.cmd with
  | error e => exact ⟨e, hd⟩
  | ok i =>
    rw [raisedCause_of_decode hd] at h
    split_ifs at h <;> cases h

theorem raisedCause_eq_uninit_iff (s : State) :
    raisedCause s = some .uninit ↔
      ∃ i, decode s.nreg s.ports.cmd = .ok i ∧ ∃ r ∈ i.reads, s.valid r = false := by
  cases hd : decode s.nreg s.ports.cmd with
  | error e => simp [raisedCause_of_illegalWord ⟨e, hd⟩]
  | ok i =>
    rw [raisedCause_of_decode hd]
    split_ifs with hread hrange <;> simpa using hread

/-- An extractor's register exists where it is written. -/
theorem raisedCause_eq_range_iff (s : State) :
    raisedCause s = some .range ↔ ∃ rs, s.readable rs ∧
      ((decode s.nreg s.ports.cmd = .ok (.exu rs) ∧ predU (s.acc rs) = false) ∨
       (decode s.nreg s.ports.cmd = .ok (.exn rs) ∧ predN (s.acc rs) = false)) := by
  have hreadable (r : RegIx) : s.readable r ↔ s.valid r = true := and_iff_right_of_imp (lt_nreg_of_valid s r)
  cases hd : decode s.nreg s.ports.cmd with
  | error e => simp [raisedCause_of_illegalWord ⟨e, hd⟩]
  | ok i =>
    rw [raisedCause_of_decode hd]
    cases i with
    | exu r | exn r => by_cases hv : s.valid r = true <;> simp [Instr.reads, rangeViolated, hreadable, hv]
    | _ => simp [rangeViolated]

/-! ### Taking a fault (R45) -/

/-- An accepted command of a running block that raises a cause takes that fault, and the edge shows the answer. -/
theorem eq_answerEdge_takeFault_of_step {s t : State} {c : Cause} (h : step s = .next t) (hs : s.running)
    (ha : s.accepts = true) (hc : raisedCause s = some c) : t = answerEdge (s.takeFault c) := by
  rw [State.running] at hs
  cases step_cases h with
  | reset hr => simp [State.accepts, hr] at ha
  | idle _ ha' => simp [ha] at ha'
  | silenced _ _ hf => simp [hs] at hf
  | faults _ _ _ c' hc' =>
    cases hc.symm.trans hc'
    rfl
  | runs _ _ _ hc' => simp [hc] at hc'

/-- Recording a cause keeps the bits above CAUSE. -/
theorem recordCause_getLsbD_reserved (st : BitVec 8) (c : Cause) (k : Nat) :
    (recordCause st c).getLsbD (5 + k) = st.getLsbD (5 + k) := by
  rw [recordCause_getLsbD, if_neg (by omega), if_neg (by omega)]

/-- Settles O32: taking a fault is an update of STATUS and FCMD, and the edge adds none to the block. -/
theorem faultEntryWritesOnlyStatusAndFcmd : Obligations.FaultEntryWritesOnlyStatusAndFcmd := by
  unfold Obligations.FaultEntryWritesOnlyStatusAndFcmd
  refine ⟨fun s c => ⟨takeFault_faulted s c, takeFault_cause s c, takeFault_fcmd s c, rfl, fun k _ => ?_⟩,
    fun s c hs ha hc => ⟨_, step_eq s, ?_⟩⟩
  · exact recordCause_getLsbD_reserved s.status c k
  · rw [eq_answerEdge_takeFault_of_step (step_eq s) hs ha hc]
    exact sameBlock_answerEdge _

/-! ### The faulted state (R46, R47) -/

/-- Without reset no edge changes a faulted block, whether a command is offered or not. -/
theorem sameBlock_of_step_of_faulted {s t : State} (h : step s = .next t) (hr : s.ports.rstN = true)
    (hf : s.faulted = true) : SameBlock s t := by
  cases step_cases h with
  | reset hr' => simp [hr] at hr'
  | idle => exact sameBlock_idleEdge s
  | silenced => exact sameBlock_answerEdge s
  | faults _ _ hf' => simp [hf] at hf'
  | runs _ _ hf' => simp [hf] at hf'

/-- Settles O33: the edge keeps the block, so the response too, and answers like any edge that accepts. -/
theorem faultedBlockSilencesCommands : Obligations.FaultedBlockSilencesCommands := by
  unfold Obligations.FaultedBlockSilencesCommands
  intro s hf ha
  obtain ⟨hr, -, -⟩ := (accepts_iff s).mp ha
  have hsame := sameBlock_of_step_of_faulted (step_eq s) hr hf
  exact ⟨_, step_eq s, hsame, (rspValid_afterEdge s).trans ha, (cmdReady_afterEdge s).trans hr,
    response_eq_of_sameBlock hsame⟩

/-- The inputs of the edges after this one are those the host has still to drive, then its silence. -/
theorem rstN_afterEdge {k : Nat} {s : State} (h : ∀ p ∈ s.future.take k, p.rstN = true) :
    ∀ p ∈ ((afterEdge s).ports :: (afterEdge s).future).take k, p.rstN = true := by
  rw [afterEdge_ports, afterEdge_future]
  cases hfuture : s.future with
  | nil =>
    intro p hp
    obtain rfl : p = PortIn.idle := by simpa using List.mem_of_mem_take hp
    rfl
  | cons q qs => simpa [hfuture] using h

/-- By induction on the number of edges: each keeps the block, so the next finds it faulted. -/
theorem exists_run_sameBlock_of_faulted (k : Nat) {s : State} (hf : s.faulted = true)
    (hr : ∀ p ∈ (s.ports :: s.future).take k, p.rstN = true) :
    ∃ t, core.run k s = .next t ∧ SameBlock s t := by
  induction k generalizing s with
  | zero => exact ⟨s, rfl, ⟨rfl, ⟨rfl, rfl⟩, rfl, rfl⟩⟩
  | succ k ih =>
    rw [List.take_succ_cons, List.forall_mem_cons] at hr
    obtain ⟨hr, hrest⟩ := hr
    have hsame := sameBlock_of_step_of_faulted (step_eq s) hr hf
    have ⟨_, _, hstatus, _⟩ := hsame
    obtain ⟨t, hrun, ht⟩ := ih ((faulted_congr hstatus).trans hf) (rstN_afterEdge hrest)
    exact ⟨t, (core_run_succ k s).trans hrun, sameBlock_trans hsame ht⟩

/-- Settles O34: a faulted block keeps its state edge by edge, and a reset edge gives the reset values. -/
theorem onlyResetLeavesTheFaultedState : Obligations.OnlyResetLeavesTheFaultedState := by
  unfold Obligations.OnlyResetLeavesTheFaultedState
  refine ⟨fun k s hf hr => exists_run_sameBlock_of_faulted k hf hr, fun s hr => ⟨_, step_eq s, ?_⟩⟩
  rw [afterEdge_of_reset hr]
  exact ⟨resetEdge_faulted s, resetEdge_fcmd s, resetEdge_valid s⟩

/-! ### What an accepted command leaves (R43, R44) -/

/-- An accepted command that raises nothing leaves STATUS alone. -/
theorem status_of_step_of_no_cause {s t : State} (h : step s = .next t) (ha : s.accepts = true)
    (hc : raisedCause s = none) : t.status = s.status := by
  obtain ⟨hr, -, -⟩ := (accepts_iff s).mp ha
  obtain ⟨hstatus, -⟩ := sameFault_of_step h hr (.inr (.inr hc))
  exact hstatus

/-- Settles O30: the if-chain is that of the checks on a decoded word; a command that raises nothing is run by the
edge and leaves STATUS alone. -/
theorem firstApplicableCauseIsRaised : Obligations.FirstApplicableCauseIsRaised := by
  unfold Obligations.FirstApplicableCauseIsRaised
  intro s ha
  obtain ⟨hr, -, -⟩ := (accepts_iff s).mp ha
  have hstep := step_eq s
  refine ⟨_, hstep, sameBlock_of_step_of_faulted hstep hr,
    fun hs hill => faultedWith_of_step hstep ha hs (raisedCause_of_illegalWord hill), fun i hs hd => ?_⟩
  have hcause := raisedCause_of_decode hd
  split_ifs at hcause ⊢
  · exact faultedWith_of_step hstep ha hs hcause
  · exact faultedWith_of_step hstep ha hs hcause
  · obtain ⟨u, hexec, hu⟩ := exists_exec_step ha hs hd
    have hedge : afterEdge s = answerEdge u := Host.Outcome.next.inj (hstep.symm.trans hu)
    exact ⟨(faulted_congr (status_of_step_of_no_cause hstep ha hcause)).trans hs, u, hexec,
      hedge ▸ sameBlock_answerEdge u⟩

section Recorded
variable {s t : State} (hinv : s.Inv) (hs : s.running) (ha : s.accepts = true) (h : step s = .next t)
include hs ha h

/-- FCMD holds the word wherever FAULT is 1 after a command of a running block. -/
theorem fcmd_of_step_of_faulted (hf : t.faulted = true) : t.fcmd = s.ports.cmd := by
  cases hc : raisedCause s with
  | some c =>
    obtain ⟨-, -, -, hfcmd, -⟩ := faultedWith_of_step h ha hs hc
    exact hfcmd
  | none =>
    have hrun : t.faulted = false := (faulted_congr (status_of_step_of_no_cause h ha hc)).trans hs
    simp [hrun] at hf

include hinv

/-- CAUSE holds the code of the cause that the command raised: NONE has no cause's code, and no two causes share
one. -/
theorem cause_eq_code_iff_of_step (c : Cause) : t.cause = c.code ↔ raisedCause s = some c := by
  cases hc : raisedCause s with
  | some c' =>
    obtain ⟨-, hcause, -⟩ := faultedWith_of_step h ha hs hc
    rw [hcause]
    cases c <;> cases c' <;> decide
  | none =>
    obtain ⟨hzero, -⟩ := hinv.noFaultNoRecord hs
    rw [cause_congr (status_of_step_of_no_cause h ha hc), hzero]
    cases c <;> decide

end Recorded

/-- Settles O31: CAUSE is the code of the cause raised, whose condition the checks give; the state after the edge meets
the invariant, which says what NONE stands for. -/
theorem causeCodesMeanTheirConditions : Obligations.CauseCodesMeanTheirConditions := by
  unfold Obligations.CauseCodesMeanTheirConditions
  intro s hinv hs ha
  have hstep := step_eq s
  have ht := inv_of_step hinv hstep
  obtain ⟨hzero, hlt⟩ := cause_of_inv ht
  have hcode := cause_eq_code_iff_of_step hinv hs ha hstep
  exact ⟨_, hstep, hzero, fun hf => (ht.noFaultNoRecord hf).2, fcmd_of_step_of_faulted hs ha hstep,
    (hcode .range).trans (raisedCause_eq_range_iff s), (hcode .illegal).trans (raisedCause_eq_illegal_iff s),
    (hcode .uninit).trans (raisedCause_eq_uninit_iff s), hlt⟩

/-! ### What is no fault (R49) -/

/-- RANGE is the extractors' cause alone. -/
theorem rangeViolated_eq_false_of_ne {i : Instr} (s : State) (hu : ∀ r, i ≠ .exu r) (hn : ∀ r, i ≠ .exn r) :
    rangeViolated s i = false := by
  cases i with
  | exu r => exact absurd rfl (hu r)
  | exn r => exact absurd rfl (hn r)
  | _ => rfl

theorem dest_eq_none_of_opcode {i : Instr} (h : i.opcode ∈ [Opcode.isu, .isn]) : i.dest = none := by
  cases i with
  | isu | isn => rfl
  | seed | neg | add | exu | exn => simp [Instr.opcode] at h

/-- Settles O25: a command that is no extractor and reads written registers raises nothing whatever the operands are, so
it makes its rule's writes and no other. -/
theorem wraparoundAndFalsePredicatesAreNoFaults : Obligations.WraparoundAndFalsePredicatesAreNoFaults := by
  unfold Obligations.WraparoundAndFalsePredicatesAreNoFaults
  intro s i hs hw hread hop
  have hu : ∀ r, i ≠ .exu r := by rintro r rfl; simp [Instr.opcode] at hop
  have hn : ∀ r, i ≠ .exn r := by rintro r rfl; simp [Instr.opcode] at hop
  have hxr := effect_xr_of_ne s hu hn
  have hc := instrCause_eq_none_of hw hread (rangeViolated_eq_false_of_ne s hu hn)
  refine ⟨effect i s, by rw [exec_eq, hc], (effect_faulted i s).trans hs, sameFault_effect i s, samePorts_effect i s,
    hxr, fun harith => ⟨⟨?_, hxr⟩, fun r => sameFileBut_effect s⟩,
    fun hpred => effect_file_of_dest_none (dest_eq_none_of_opcode hpred) s⟩
  exact effect_pf_of_ne s (by rintro r rfl; simp [Instr.opcode] at harith)
    (by rintro r rfl; simp [Instr.opcode] at harith)

end Sys2Proof.Machine

/-! Reset and hazards (70_reset_and_hazards.md). The exact integers the registers stand for and the bounds that keep a
sum exact (R57), reset and boot (R52 to R54), and two commands at consecutive edges (R55). -/

namespace Sys2Proof.Machine

/-! ### Exact integers along a run (R57) -/

/-- A word that is an integer modulo `2^96` has that integer as its value, where the range of a word holds it. -/
theorem val_eq_of_toNat_eq_emod {x : Word96} {n : Int} (h : (x.toNat : Int) = n % 2 ^ 96) (hlo : valMin ≤ n)
    (hhi : n ≤ valMax) : val x = n := by
  rw [valMin] at hlo
  rw [valMax] at hhi
  have hx := x.isLt
  rw [val_eq_div]
  omega

theorem lt_nreg_of_wellFormed {nreg : Nat} {i : Instr} (hw : i.wellFormed nreg = true) {r : RegIx}
    (hr : r ∈ i.regs) : r.val < nreg := by
  by_contra hge
  have hill := (wellFormed_eq_false_iff nreg i).mpr ⟨r, hr, Nat.le_of_not_lt hge⟩
  simp [hw] at hill

section Tracks
variable {s t : State} {m : Exact} (hm : Tracks s m)
include hm

theorem tracks_of_sameFile (h : SameFile s t) : Tracks t m := fun r hr => by
  rw [acc_congr h r]
  exact hm r ((valid_congr h r).symm.trans hr)

/-- A register written with the residue of `n` stands for `n` from then on, and the others for what they did. -/
theorem tracks_of_wroteAcc {d : RegIx} {v : Word96} {n : Int} (h : WroteAcc d v s t)
    (hv : (v.toNat : Int) = n % 2 ^ 96) : Tracks t (Function.update m d n) := by
  obtain ⟨hacc, -, ⟨-, hothers⟩, -⟩ := h
  intro r hr
  by_cases hrd : r = d
  · subst hrd
    rw [hacc, Function.update_self, hv]
  · obtain ⟨hother, hvalid⟩ := hothers r hrd
    rw [hother, Function.update_of_ne hrd]
    exact hm r (hvalid.symm.trans hr)

/-- A command that raises nothing does to the residues what the exact command does to the integers. -/
theorem tracks_effect {i : Instr} (hi : instrCause s i = none) :
    Tracks (effect i s) (exactAfter m s.ports.din i) := by
  obtain ⟨hw, hread, -⟩ := instrCause_eq_none hi
  cases i with
  | seed rd =>
    have hdin := s.ports.din.isLt
    refine tracks_of_wroteAcc hm (wroteAcc_effect_seed (lt_nreg_of_wellFormed hw (by simp [Instr.regs]))) ?_
    rw [zext96, BitVec.toNat_setWidth]
    omega
  | neg rd rs =>
    have hs := hm rs (hread rs (by simp [Instr.reads]))
    refine tracks_of_wroteAcc hm (wroteAcc_effect_neg rs (lt_nreg_of_wellFormed hw (by simp [Instr.regs]))) ?_
    rw [neg96_toNat]
    omega
  | add rd rs =>
    have hvalid := hread rd (by simp [Instr.reads])
    have hd := hm rd hvalid
    have hs := hm rs (hread rs (by simp [Instr.reads]))
    refine tracks_of_wroteAcc hm (wroteAcc_effect_add rs hvalid) ?_
    rw [add96_toNat]
    omega
  | isu | exu | isn | exn => exact tracks_of_sameFile hm (effect_file_of_dest_none rfl s)

/-- Reset forgets every register; an edge that runs no command changes neither side. -/
theorem tracks_of_step (h : step s = .next t) : Tracks t (exactAfterEdge m s) := by
  cases hr : s.ports.rstN with
  | false =>
    intro r hvalid
    simp [eq_resetEdge_of_step h hr] at hvalid
  | true =>
    cases hrun : s.runsCommand with
    | false =>
      obtain ⟨hfile, -⟩ := sameFile_sameResults_of_step h hr hrun
      simpa [exactAfterEdge, hrun] using tracks_of_sameFile hm hfile
    | true =>
      obtain ⟨i, hd, hi, rfl⟩ := exists_effect_of_step h hrun
      simpa [exactAfterEdge, hrun, hd] using tracks_of_sameFile (tracks_effect hm hi) (answerEdge_file _)

end Tracks

theorem exactAfterEdges_succ (k : Nat) (m : Exact) (s : State) :
    exactAfterEdges (k + 1) m s = exactAfterEdges k (exactAfterEdge m s) (afterEdge s) := by
  rw [exactAfterEdges, step_eq]

theorem exists_run_tracks (k : Nat) {s : State} {m : Exact} (hm : Tracks s m) :
    ∃ t, core.run k s = .next t ∧ Tracks t (exactAfterEdges k m s) := by
  induction k generalizing s m with
  | zero => exact ⟨s, rfl, hm⟩
  | succ k ih =>
    rw [core_run_succ, exactAfterEdges_succ]
    exact ih (tracks_of_step hm (step_eq s))

/-- Settles O41: every edge keeps the residues, and a residue gives the integer back where a word can hold it. -/
theorem registersTrackTheExactIntegers : Obligations.RegistersTrackTheExactIntegers := by
  unfold Obligations.RegistersTrackTheExactIntegers
  intro k s m hm
  obtain ⟨t, hrun, ht⟩ := exists_run_tracks k hm
  exact ⟨t, hrun, ht, fun r hr => val_eq_of_toNat_eq_emod (ht r hr)⟩

/-! ### The capacity bounds (R57) -/

/-- However a fold with ADD96 wraps on the way, its value is the exact sum reduced into the range of a word. -/
theorem val_foldl_add96 (vs : List Word96) (x : Word96) :
    val (vs.foldl add96 x) = (val x + (vs.map val).sum).bmod (2 ^ 96) := by
  induction vs generalizing x with
  | nil => rw [List.foldl_nil, List.map_nil, List.sum_nil, add_zero, val_eq_toInt, BitVec.toInt_bmod_cancel]
  | cons v vs ih => rw [List.foldl_cons, ih, val_add96, Int.bmod_add_bmod, List.map_cons, List.sum_cons, add_assoc]

/-- The sum of values in `[lo, hi]` lies between as many times `lo` and as many times `hi`. -/
theorem sum_map_val_mem_bounds {vs : List Word96} {lo hi : Int} (h : ∀ v ∈ vs, lo ≤ val v ∧ val v ≤ hi) :
    vs.length * lo ≤ (vs.map val).sum ∧ (vs.map val).sum ≤ vs.length * hi := by
  have hlo := List.card_nsmul_le_sum (vs.map val) lo (List.forall_mem_map.mpr fun v hv => (h v hv).1)
  have hhi := List.sum_le_card_nsmul (vs.map val) hi (List.forall_mem_map.mpr fun v hv => (h v hv).2)
  simpa using And.intro hlo hhi

/-- Settles O14: under either bound the exact sum lies in the range of a word, where reduction leaves it as it is. -/
theorem capacityBoundsSuffice : Obligations.CapacityBoundsSuffice := by
  unfold Obligations.CapacityBoundsSuffice
  intro vs h
  have hrange : -2 ^ 95 ≤ (vs.map val).sum ∧ (vs.map val).sum ≤ 2 ^ 95 - 1 := by
    obtain ⟨hlen, hvs⟩ | ⟨hlen, hvs⟩ := h
    · have hsum := sum_map_val_mem_bounds hvs
      omega
    · have hsum := sum_map_val_mem_bounds hvs
      omega
  have hzero : val 0#96 = 0 := rfl
  rw [val_foldl_add96, hzero, zero_add, Int.bmod_def]
  omega

/-! ### Reset and boot (R52 to R54) -/

/-- The invariant at reset, `NREG` being legal: no fault is recorded and every element has its reset value. -/
theorem inv_resetWith {n : Nat} (hn : Config.legalNreg n = true) : (State.resetWith n).Inv where
  nregLegal := (resetWith_nreg n).symm ▸ hn
  reservedZero := resetWith_statusReserved n
  noFaultNoRecord _ := ⟨resetWith_cause n, rfl⟩
  faultExplained h := by simp at h
  inResetCleared _ := ⟨rfl, rfl, rfl, resetWith_faulted n, resetWith_valid n⟩

/-- Settles O38: a block just reset holds no fault, so there is no record to explain. -/
theorem resetStateMeetsTheInvariant : Obligations.ResetStateMeetsTheInvariant := by
  unfold Obligations.ResetStateMeetsTheInvariant
  exact ⟨fun n hn => ⟨inv_resetWith hn, resetWith_nreg n⟩, inv_resetWith rfl⟩

/-- Settles O47: the reset values, element by element. -/
theorem resetStateHasTheResetValues : Obligations.ResetStateHasTheResetValues := by
  unfold Obligations.ResetStateHasTheResetValues
  exact ⟨rfl, fun n => ⟨resetWith_nreg n, resetWith_valid n, rfl, rfl, resetWith_faulted n, resetWith_cause n,
    resetWith_statusReserved n, rfl⟩⟩

/-- Holding reset longer changes nothing (R52). -/
theorem sameBlock_resetEdge_resetEdge (s : State) : SameBlock (resetEdge s) (resetEdge (resetEdge s)) := by
  simp [SameBlock, SameFile, SameResults, SameFault]

theorem outputs_resetEdge (s : State) : outputs (resetEdge s) = ⟨false, false, false, 0#4, 0#16, false, 0#64⟩ := by
  simp [outputs, State.cmdReady]

/-- Settles O46: an edge without `rst_n` is the reset edge whatever the host offers. -/
theorem resetEdgeGivesTheResetValues : Obligations.ResetEdgeGivesTheResetValues := by
  unfold Obligations.ResetEdgeGivesTheResetValues
  intro s hr
  have hstep := step_eq s
  rw [afterEdge_of_reset hr] at hstep
  refine ⟨resetEdge s, hstep, resetEdge_nreg s, resetEdge_valid s, resetEdge_pf s, resetEdge_xr s, resetEdge_faulted s,
    resetEdge_cause s, resetEdge_statusReserved s, resetEdge_fcmd s, outputs_resetEdge s, fun hr' => ?_⟩
  refine ⟨_, step_eq _, ?_⟩
  rw [afterEdge_of_reset hr']
  exact sameBlock_resetEdge_resetEdge s

/-- In the cycle after a reset edge the block accepts nothing (R15). -/
theorem accepts_of_inReset {s : State} (h : s.inReset = true) : s.accepts = false := by
  simp [State.accepts, State.cmdReady, h]

/-- A SEED a running block accepts makes its register readable. -/
theorem exists_step_seed {s : State} {rd : RegIx} (ha : s.accepts = true) (hs : s.running) (hd : rd.val < s.nreg)
    (hcmd : s.ports.cmd = encode (.seed rd)) :
    ∃ t, step s = .next t ∧ t.readable rd ∧ t.acc rd = s.ports.din.setWidth 96 ∧ t.running := by
  have hw : (Instr.seed rd).wellFormed s.nreg = true := wellFormed_of_forall_lt (by simpa [Instr.regs] using hd)
  obtain ⟨t, hexec, hstep⟩ := exists_exec_step ha hs (hcmd ▸ decode_encode_of_wellFormed hw)
  obtain ⟨u, hexec', hacc, hvalid, -, ⟨hn, -⟩, -, ⟨hstatus, -⟩, -⟩ := exists_exec_seed hd
  cases hexec.symm.trans hexec'
  exact ⟨_, hstep, ⟨by simpa [hn] using hd, (answerEdge_valid t rd).trans hvalid⟩, (answerEdge_acc t rd).trans hacc,
    (answerEdge_faulted t).trans ((faulted_congr hstatus).trans hs)⟩

/-- Settles O48: the first edge is idle, since a block in reset accepts nothing, and the second one takes the SEED. -/
theorem bootThenSeedMakesARegisterReadable : Obligations.BootThenSeedMakesARegisterReadable := by
  unfold Obligations.BootThenSeedMakesARegisterReadable
  intro s rd u rest hreset hs hd hr hfuture
  have hstep := step_eq s
  rw [afterEdge_of_idle hr (accepts_of_inReset hreset)] at hstep
  have hports : (idleEdge s).ports = PortIn.offer (encode (.seed rd)) u := by
    rw [idleEdge_ports, hfuture, encode_seed]
    rfl
  have ha : (idleEdge s).accepts = true := by
    rw [accepts_iff, hports, State.cmdReady, idleEdge_inReset]
    exact ⟨rfl, rfl, rfl⟩
  have hcmd : (idleEdge s).ports.cmd = encode (.seed rd) := by rw [hports]; rfl
  obtain ⟨v, hv, hreadable, hacc, hrun⟩ := exists_step_seed ha ((idleEdge_faulted s).trans hs)
    ((idleEdge_nreg s).symm ▸ hd) hcmd
  rw [hports] at hacc
  have hready : (idleEdge s).cmdReady = true := by rw [State.cmdReady, idleEdge_inReset]; rfl
  exact ⟨idleEdge s, v, hstep, sameBlock_idleEdge s, hready, hv, hreadable, hacc, hrun⟩

/-! ### Consecutive commands (R55) -/

/-- A running block does with a decoded command what the command's own rule says. -/
theorem exec_eq_afterCommand {s : State} {i : Instr} (hs : s.running) (hd : decode s.nreg s.ports.cmd = .ok i) :
    exec i s = .next (afterCommand s) := by
  rw [State.running] at hs
  rw [← acceptCommand_eq]
  simp [acceptCommand, hs, hd]

/-- The edge that takes an offered command leaves the block as the command's own rule does. -/
theorem exists_exec_offer {s x : State} {i : Instr} (h : SameBlock s x) (hs : s.running)
    (hw : i.wellFormed s.nreg = true) (u : Word64) (cs : List (CmdWord × Word64)) :
    ∃ t, exec i { s with ports := PortIn.offer (encode i) u } = .next t ∧ t.nreg = s.nreg ∧
      SameBlock t (afterEdge (x.withCommands ((encode i, u) :: cs))) :=
  ⟨_, exec_eq_afterCommand hs (decode_encode_of_wellFormed hw), afterCommand_nreg _,
    sameBlock_afterCommand_afterEdge h (encode i, u) cs⟩

/-- The edge that takes a command leaves a faulted block as it was (60_exceptions.md R46). -/
theorem sameBlock_afterEdge_withCommands_of_faulted {s x : State} (h : SameBlock s x) (hf : s.faulted = true)
    (c : CmdWord × Word64) (cs : List (CmdWord × Word64)) : SameBlock s (afterEdge (x.withCommands (c :: cs))) := by
  have ⟨_, _, hstatus, _⟩ := h
  have hfx : (x.withCommands (c :: cs)).faulted = true := (faulted_congr hstatus).trans hf
  have hoffer : SameBlock s (x.withCommands (c :: cs)) := h
  exact sameBlock_trans hoffer (sameBlock_of_step_of_faulted (step_eq _) rfl hfx)

/-- Settles O50: the first edge leaves the block its command leaves, and the second command runs on that block. -/
theorem consecutiveCommandsCompose : Obligations.ConsecutiveCommandsCompose := by
  unfold Obligations.ConsecutiveCommandsCompose
  intro s i j u v hs hi hj
  obtain ⟨t, hexec, hn, hfirst⟩ := exists_exec_offer ⟨rfl, ⟨rfl, rfl⟩, rfl, rfl⟩ hs hi u [(encode j, v)]
  refine ⟨t, _, hexec, core_run_two_withCommands s (encode i, u) (encode j, v), rspValid_afterEdge _,
    fun hf => sameBlock_afterEdge_withCommands_of_faulted hfirst hf (encode j, v) [], fun hrun => ?_⟩
  obtain ⟨x, hexec', -, hsecond⟩ := exists_exec_offer hfirst hrun (hn.symm ▸ hj) v []
  exact ⟨x, hexec', hsecond⟩

end Sys2Proof.Machine

/-! The decode vectors (95_test_vectors.md section 2.1). -/

namespace Sys2Proof.Machine

/-- Settles O6: a legal word is the encoder's word of its existing command; the illegal ones are refused as the decoder
evaluates, one by R25's check, two by an unused field, two by the opcode and one by `z`. -/
theorem listedWordsDecodeAsListed : Obligations.ListedWordsDecodeAsListed := by
  unfold Obligations.ListedWordsDecodeAsListed
  have legal {nreg : Nat} {w : CmdWord} {i : Instr} (h : i.wellFormed nreg = true ∧ encode i = w) :
      decode nreg w = .ok i := (decode_eq_ok_iff nreg w i).mpr h
  have noRegister : decode 4 (encode (.seed 4)) = .error .noSuchRegister := decode_encode 4 (.seed 4)
  have unusedField : decode 4 0x0101#16 = .error .unusedField ∧ decode 4 0x0014#16 = .error .unusedField := by decide
  have reservedOpcode : decode 4 0x0000#16 = .error .reservedOpcode ∧
      decode 4 0x000F#16 = .error .reservedOpcode := by decide
  have reservedField : decode 4 0x1103#16 = .error .reservedField := by decide
  exact ⟨legal (by decide), legal (by decide), legal (by decide), legal (by decide), legal (by decide),
    legal (by decide), legal (by decide), noRegister, unusedField.1, unusedField.2, reservedOpcode.1,
    reservedOpcode.2, reservedField, legal (by decide), legal (by decide), legal (by decide)⟩

end Sys2Proof.Machine
